-- ==== Sys2Proof/Word.lean ====
section
/-! DEFINITION. The word types of QRE-1: 32-bit registers and bus data, bytes, 16-bit window offsets. -/

namespace Sys2Proof

/-- The width of every register and of the bus data (spec/00_scope.md R8, REG_WIDTH). -/
abbrev Word := BitVec 32

/-- A codeword, a buffer byte or a module cell (spec/00_scope.md R17, spec/10_state.md R50). -/
abbrev Byte := BitVec 8

/-- A byte offset inside the block's 64 KiB window (spec/00_scope.md R8, ADDR_WIDTH). -/
abbrev Offset := BitVec 16

end Sys2Proof
end

