-- ==== Sys2Proof/Syntax.lean ====
section
/-! DEFINITION. The 13 commands of the opcode map, spec/30_encoding.md R101. -/

namespace Sys2Proof

/-- One command of the opcode table. The only immediate operand is the mask id `m` of the two mask commands (R102); every other
operand is a parameter register, read when the command executes (R103). -/
inductive Instr where
  /-- R260 -/
  | nop
  /-- R130 -/
  | gfMul
  /-- R131 -/
  | gfExp
  /-- R132 -/
  | gfLog
  /-- R150 -/
  | genPoly
  /-- R151 -/
  | rsBlock
  /-- R152 -/
  | rsSynd
  /-- R170 -/
  | interleave
  /-- R211 -/
  | matrixBuild
  /-- R240 -/
  | maskScore (m : Nat)
  /-- R241 -/
  | maskCommit (m : Nat)
  /-- R242 -/
  | maskAuto
  /-- R261 -/
  | encodeAll
  deriving DecidableEq, Repr

end Sys2Proof
end

