-- ==== Sys2Proof/WellFormed.lean ====
section
/-! DEFINITION. Which terms of Instr are commands of the block: the mask id lies in 0..7 (spec/30_encoding.md R102). -/

namespace Sys2Proof

/-- The source's "maskId (0–7)": the three bits ARG[2:0] (R102). -/
def maskIdOk (m : Nat) : Bool := m < 8

/-- A term the encoding can express. -/
def Instr.wellFormed : Instr → Bool
  | .nop => true
  | .gfMul => true
  | .gfExp => true
  | .gfLog => true
  | .genPoly => true
  | .rsBlock => true
  | .rsSynd => true
  | .interleave => true
  | .matrixBuild => true
  | .maskScore m => maskIdOk m
  | .maskCommit m => maskIdOk m
  | .maskAuto => true
  | .encodeAll => true

end Sys2Proof
end

