-- ==== Sys2Proof/Decode.lean ====
section
/-! DEFINITION. Decoding of a command word, total and by the 32-bit word alone (spec/30_encoding.md R100 to R106), and after it the
encoder. -/

namespace Sys2Proof

/-- Why a command word is illegal: the three conditions of R104, in its order. All three fault ILLEGAL_CMD (R274). -/
inductive Illegal where
  /-- `w[31:16]` is not 0. -/
  | reservedBits
  /-- `w[7:0]` is no OP of R101. -/
  | reservedOp
  /-- `w[15:8]` does not satisfy R102 for that OP. -/
  | badArg
  deriving DecidableEq, Repr

/-- Field OP of a command word (R100). -/
def opField (w : Word) : Byte := w.extractLsb' 0 8

/-- Field ARG of a command word (R100). -/
def argField (w : Word) : Byte := w.extractLsb' 8 8

/-- Field RSV of a command word (R100). -/
def rsvField (w : Word) : BitVec 16 := w.extractLsb' 16 16

/-- A command whose ARG must be 0 (R102). -/
def decodePlain (arg : Byte) (i : Instr) : Except Illegal Instr :=
  if arg = 0#8 then .ok i else .error .badArg

/-- A command whose ARG holds a mask id, `m = ARG[2:0]` with `ARG[7:3]` = 0 (R102). -/
def decodeMask (arg : Byte) (i : Nat → Instr) : Except Illegal Instr :=
  if arg.extractLsb' 3 5 = 0#5 then .ok (i (arg.extractLsb' 0 3).toNat) else .error .badArg

/-- The opcode map, R101. -/
def decodeOp (op arg : Byte) : Except Illegal Instr :=
  match op.toNat with
  | 0x00 => decodePlain arg .nop
  | 0x10 => decodePlain arg .gfMul
  | 0x11 => decodePlain arg .gfExp
  | 0x12 => decodePlain arg .gfLog
  | 0x20 => decodePlain arg .genPoly
  | 0x21 => decodePlain arg .rsBlock
  | 0x22 => decodePlain arg .rsSynd
  | 0x30 => decodePlain arg .interleave
  | 0x40 => decodePlain arg .matrixBuild
  | 0x50 => decodeMask arg .maskScore
  | 0x51 => decodeMask arg .maskCommit
  | 0x52 => decodePlain arg .maskAuto
  | 0x60 => decodePlain arg .encodeAll
  | _ => .error .reservedOp

/-- The decoder (R104, R106): a command, or the reason the word is illegal. -/
def decode (w : Word) : Except Illegal Instr :=
  if rsvField w ≠ 0#16 then .error .reservedBits else decodeOp (opField w) (argField w)

/-- Field OP of a command, R101. -/
def Instr.op : Instr → Byte
  | .nop => 0x00#8
  | .gfMul => 0x10#8
  | .gfExp => 0x11#8
  | .gfLog => 0x12#8
  | .genPoly => 0x20#8
  | .rsBlock => 0x21#8
  | .rsSynd => 0x22#8
  | .interleave => 0x30#8
  | .matrixBuild => 0x40#8
  | .maskScore _ => 0x50#8
  | .maskCommit _ => 0x51#8
  | .maskAuto => 0x52#8
  | .encodeAll => 0x60#8

/-- Field ARG of a command, R102. -/
def Instr.arg : Instr → Byte
  | .maskScore m => BitVec.ofNat 8 m
  | .maskCommit m => BitVec.ofNat 8 m
  | .nop => 0#8
  | .gfMul => 0#8
  | .gfExp => 0#8
  | .gfLog => 0#8
  | .genPoly => 0#8
  | .rsBlock => 0#8
  | .rsSynd => 0#8
  | .interleave => 0#8
  | .matrixBuild => 0#8
  | .maskAuto => 0#8
  | .encodeAll => 0#8

/-- The command word of a command: RSV = 0, then ARG, then OP (R100). -/
def encode (i : Instr) : Word := (0#16 ++ i.arg) ++ i.op

/-- What the decoder reads from an instruction of the opcode table whose bits are `w`: the one word of R100, written as one aligned
32-bit access, every bit from `nbits` up being 0. -/
def decodeTableWord (nbits w : Nat) : Option Instr :=
  match decode (BitVec.ofNat 32 (w % 2 ^ nbits)) with
  | .ok i => some i
  | .error _ => none

end Sys2Proof
end

