-- ==== Sys2Proof/Config.lean ====
section
/-! DEFINITION. What is fixed for the machine and is no state: the parameters of spec/00_scope.md R8, the constant of ID, and the
platform parameters R9 leaves open. -/

namespace Sys2Proof.Config

/-- DBUF_SIZE of R8. -/
def dbufSize : Nat := 4096

/-- CBUF_SIZE of R8. -/
def cbufSize : Nat := 4096

/-- MX_DIM of R8: the side of the module RAM. -/
def mxDim : Nat := 177

/-- The number of cells of the module RAM (spec/10_state.md R49): 177 · 177 = 31329. -/
def mxCells : Nat := 31329

/-- KMAX of R8: the largest RS ECC length of a block. -/
def kMax : Nat := 30

/-- VMIN of R8. -/
def vMin : Nat := 1

/-- VMAX of R8. -/
def vMax : Nat := 40

/-- The constant the register ID reads (spec/10_state.md R22): "QR", "E", revision 1. -/
def idValue : Word := 0x51524501#32

/-- The index of the 64 KiB page of the host bus the block sits in. R9 leaves it open: no rule depends on it (log entry 10). -/
opaque basePage : Nat

/-- QRE_BASE, a multiple of 0x10000 (R9; log entry 10). -/
def qreBase : Nat := 0x10000 * basePage

/-- QRE_IRQ, the number of the interrupt line the block drives (R9, open; log entry 10). -/
opaque qreIrq : Nat

/-- QRE_CLK, the clock frequency (R9, open; log entry 10). -/
opaque qreClk : Nat

/-- The window offset of a host-bus address, if the address lies in the block's window (R9, spec/20_memory.md R70). -/
def windowOffset (addr : Nat) : Option Offset :=
  if qreBase ≤ addr ∧ addr < qreBase + 0x10000 then some (BitVec.ofNat 16 (addr - qreBase)) else none

end Sys2Proof.Config
end

