-- ==== Sys2Proof/Machine/State.lean ====
section
/-! DEFINITION. The architectural state of QRE-1 (spec/10_state.md R20), its reset value (spec/70_reset_and_hazards.md R303), and the
reasons a step could stop. -/

namespace Sys2Proof.Machine

/-- The reasons a step could stop the machine: none. "No behaviour of the block is modelled as `stuck`"
(spec/93_implementation_defined.md section 1): every accepted command completes (R312) and every access gets a response (R70). A
fault of a command is a next state (spec/60_exceptions.md R270), not a `Fault`. -/
inductive Fault where
  deriving DecidableEq, Repr

/-- The reasons an instruction could have no meaning. -/
inductive Refusal where
  /-- Raised by `exec` for an instruction that has no meaning yet; no arm raises it. Safe. -/
  | notModelled (mnemonic : String)
  deriving DecidableEq, Repr

/-- What a byte no list entry names reads as: 0x00, the reset contents of the three memories (R301). -/
abbrev Memory.unlisted : Byte := 0#8

/-- A memory: its listed bytes, by offset. -/
abbrev Memory := List Host.Cell

/-- The canonical form: offsets strictly rise, and no entry holds what an unlisted offset reads as. -/
abbrev Memory.wf (m : Memory) : Prop :=
  m.Pairwise (fun x y => x.1 < y.1) ∧ ∀ x ∈ m, x.2 ≠ Memory.unlisted

/-- Every listed offset lies below `n`. -/
abbrev Memory.within (n : Nat) (m : Memory) : Prop := ∀ x ∈ m, x.1 < n

/-- Register CTRL (R23). SRST reads 0 and is not held. -/
structure Ctrl where
  /-- Bit 0, interrupt enable for completion. -/
  ie : Bool
  /-- Bit 1, interrupt enable for faults. -/
  fie : Bool
  deriving DecidableEq, Repr

/-- Register STATUS (R24), less BUSY, which is a function of `Seq` (R54). -/
structure Status where
  /-- Bit 1. -/
  done : Bool
  /-- Bit 2. -/
  fault : Bool
  /-- Bit 3. -/
  busyErr : Bool
  /-- Bit 4. -/
  addrErr : Bool
  /-- Bits 15..8. -/
  fcode : Byte
  /-- Bit 16. -/
  built : Bool
  /-- Bit 17. -/
  gpv : Bool
  deriving DecidableEq, Repr

/-- The parameter registers, which the host writes and no command writes (R26 to R33). Each holds its implemented field only (R21). -/
structure Params where
  /-- VERSION.V, R26. -/
  version : BitVec 6
  /-- LEVEL.LVL, R27. -/
  level : BitVec 2
  /-- RS_K.K, R28. -/
  rsK : BitVec 8
  /-- ILV_B1.B1, R29. -/
  ilvB1 : BitVec 8
  /-- ILV_D1.D1, R29. -/
  ilvD1 : BitVec 8
  /-- ILV_B2.B2, R29. -/
  ilvB2 : BitVec 8
  /-- RS_N.N, R30. -/
  rsN : BitVec 13
  /-- RS_SRC.SRC, R30. -/
  rsSrc : BitVec 12
  /-- RS_DST.DST, R30. -/
  rsDst : BitVec 12
  /-- RS_STRIDE.STRIDE, R30. -/
  rsStride : BitVec 12
  /-- GF_A.A, R31. -/
  gfA : BitVec 8
  /-- GF_B.B, R31. -/
  gfB : BitVec 8
  /-- REMBITS.REM, R32. -/
  remBits : BitVec 3
  /-- ALIGN_CNT.CNT, R33. -/
  alignCnt : BitVec 3
  /-- ALIGN_POS0 .. ALIGN_POS6, R33. -/
  alignPos : Vector (BitVec 8) 7
  deriving DecidableEq, Repr

/-- The generator registers (R41, R45). -/
structure GenRegs where
  /-- GPOLY0 .. GPOLY31: GPOLYi is the coefficient of x^i. -/
  gpoly : Vector Byte 32
  /-- GPOLY_K. -/
  gpolyK : Byte
  deriving DecidableEq, Repr

/-- A mask id with a valid bit: the format of MASK_SEL (R35) and PEN_MASK (R42). -/
structure MaskField where
  /-- Bits 2..0. -/
  mask : BitVec 3
  /-- Bit 8. -/
  valid : Bool
  deriving DecidableEq, Repr

/-- The registers that describe the matrix in MX (R34 to R37, R39). -/
structure SymbolRegs where
  /-- MX_VER, R34. -/
  mxVer : BitVec 6
  /-- MASK_SEL, R35. -/
  maskSel : MaskField
  /-- FMT_BITS, R36. -/
  fmtBits : BitVec 15
  /-- VER_BITS, R37. -/
  verBits : BitVec 18
  /-- DATA_MODULES, R39. -/
  dataModules : BitVec 16
  deriving DecidableEq, Repr

/-- The penalty breakdown and the penalty file (R42, R43). -/
structure PenaltyRegs where
  penA : Word
  penB : Word
  penC : Word
  penD : Word
  /-- DARKCNT. -/
  darkCnt : BitVec 16
  /-- PEN_MASK. -/
  penMask : MaskField
  /-- PENALTY0 .. PENALTY7. -/
  penalty : Vector Word 8
  deriving DecidableEq, Repr

/-- The sequencer state SEQ (R54). -/
inductive Seq where
  /-- Reset initialisation in progress. -/
  | init
  | idle
  /-- The command word is accepted and not complete. -/
  | exec (w : Word)
  deriving DecidableEq, Repr

/-- The fault codes of spec/60_exceptions.md R271. -/
inductive FaultCode where
  | illegalCmd
  | badK
  | badLayout
  | badRange
  | badVersion
  | badAlign
  | layoutMismatch
  | notBuilt
  | gfLogZero
  deriving DecidableEq, Repr

/-- The registers of the window (spec/10_state.md section 2). -/
inductive Reg where
  | id | ctrl | status | cmd | version | level | rsK | ilvB1 | ilvD1 | ilvB2 | rsN | rsSrc | rsDst | rsStride | gfA | gfB | gfR
  | remBits | alignCnt
  | alignPos (i : Fin 7)
  | mxVer | maskSel | fmtBits | verBits | cwTotal | dataTotal | dataModules | rsSyndz | penA | penB | penC | penD | darkCnt | penMask
  | gpolyK
  | penalty (m : Fin 8)
  | gpoly (i : Fin 32)
  /-- A reserved offset, RES0 (R44). -/
  | reserved
  deriving DecidableEq, Repr

/-- What stands at a window offset (spec/20_memory.md R71): `reg` for offsets of the register region, with the register of the aligned
word the offset lies in. -/
inductive Place where
  | reg (r : Reg)
  | unmapped
  | dbuf (a : Nat)
  | cbuf (a : Nat)
  | mx (j : Nat)
  deriving DecidableEq, Repr

/-- The kinds of a module cell (spec/10_state.md R50). -/
inductive Kind where
  | empty
  | func
  | data
  | fmt
  deriving DecidableEq, Repr

/-- The penalties of one candidate (spec/44_mask.md R224 to R228). -/
structure Score where
  a : Nat
  b : Nat
  c : Nat
  d : Nat
  /-- The dark-module count. -/
  dark : Nat
  deriving DecidableEq, Repr

/-- A host access: a read or a write of one or four bytes at a window offset (spec/20_memory.md R70). -/
inductive Access where
  | read8 (off : Offset)
  | read32 (off : Offset)
  | write8 (off : Offset) (v : Byte)
  | write32 (off : Offset) (v : Word)
  deriving DecidableEq, Repr

/-- One input of the outside world, in the order the block sees them (log entry 1). -/
inductive Event where
  /-- The port performs a host access (R86). -/
  | host (a : Access)
  /-- The sequencer's turn: it ends the reset initialisation or completes the accepted command. How many host accesses come before it
  is the latency R311 leaves open. -/
  | sequencer
  /-- The platform asserts the hardware reset input (R300). -/
  | hardReset
  deriving DecidableEq, Repr

/-- The port's response to an access (R70). -/
inductive Reply where
  /-- The 32 bits a read returns. -/
  | data (v : Word)
  /-- A write completed. -/
  | written
  deriving DecidableEq, Repr

/-- The state of the block, and the two fields of the model's own: the inputs still to come and the last response. -/
structure State where
  ctrl : Ctrl
  status : Status
  /-- CMD, R25. -/
  cmd : Word
  params : Params
  /-- GF_R.R, R31. -/
  gfR : Byte
  /-- RS_SYNDZ.Z, R40. -/
  rsSyndz : Bool
  gen : GenRegs
  symbol : SymbolRegs
  pen : PenaltyRegs
  /-- R47: keys are byte offsets below 4096. -/
  dbuf : Memory
  /-- R48: keys are byte offsets below 4096. -/
  cbuf : Memory
  /-- R49: the key of MX[r][c] is 177·r + c. -/
  mx : Memory
  /-- R54. -/
  seq : Seq
  /-- The model's own field (log entry 1). -/
  events : List Event
  /-- The model's own field (log entry 4). -/
  reply : Option Reply
  deriving DecidableEq, Repr

/-- CTRL after reset (R303). -/
def Ctrl.reset : Ctrl := { ie := false, fie := false }

/-- The stored bits of STATUS after reset (R303). -/
def Status.reset : Status :=
  { done := false, fault := false, busyErr := false, addrErr := false, fcode := 0, built := false, gpv := false }

/-- The parameter registers after reset (R303). -/
def Params.reset : Params :=
  { version := 0, level := 0, rsK := 0, ilvB1 := 0, ilvD1 := 0, ilvB2 := 0, rsN := 0, rsSrc := 0, rsDst := 0, rsStride := 0,
    gfA := 0, gfB := 0, remBits := 0, alignCnt := 0, alignPos := Vector.replicate 7 0#8 }

/-- The generator registers after reset (R303). -/
def GenRegs.reset : GenRegs := { gpoly := Vector.replicate 32 0#8, gpolyK := 0 }

/-- A mask field after reset (R303). -/
def MaskField.reset : MaskField := { mask := 0, valid := false }

/-- The symbol registers after reset (R303). -/
def SymbolRegs.reset : SymbolRegs :=
  { mxVer := 0, maskSel := MaskField.reset, fmtBits := 0, verBits := 0, dataModules := 0 }

/-- The penalty registers after reset (R303). -/
def PenaltyRegs.reset : PenaltyRegs :=
  { penA := 0, penB := 0, penC := 0, penD := 0, darkCnt := 0, penMask := MaskField.reset, penalty := Vector.replicate 8 0#32 }

/-- The machine right after reset (R301, R303): the reset initialisation in progress, every register at its reset value, every byte of
the three memories 0x00. No input has come and no access has been answered. -/
def State.reset : State :=
  { ctrl := Ctrl.reset, status := Status.reset, cmd := 0, params := Params.reset, gfR := 0, rsSyndz := false,
    gen := GenRegs.reset, symbol := SymbolRegs.reset, pen := PenaltyRegs.reset, dbuf := [], cbuf := [], mx := [],
    seq := Seq.init, events := [], reply := none }

end Sys2Proof.Machine
end

