-- ==== Sys2Proof/Machine/Ops.lean ====
section
/-! DEFINITION. The shared operations: bytes and words of a memory, the scratch matrix, acceptance, completion and faulting of a
command, reset. -/

namespace Sys2Proof.Machine

/-! ### Memories -/

/-- The byte at offset `a`. -/
def Memory.readByte (m : Memory) (a : Nat) : Byte :=
  match m with
  | [] => Memory.unlisted
  | (k, b) :: t => if k = a then b else Memory.readByte t a

/-- Store `b` at offset `a`, keeping the canonical form. -/
def Memory.writeByte (m : Memory) (a : Nat) (b : Byte) : Memory :=
  match m with
  | [] => if b = Memory.unlisted then [] else [(a, b)]
  | (k, v) :: t =>
    if a < k then (if b = Memory.unlisted then (k, v) :: t else (a, b) :: (k, v) :: t)
    else if a = k then (if b = Memory.unlisted then t else (a, b) :: t)
    else (k, v) :: Memory.writeByte t a b

/-- A 4-byte read is little-endian (spec/20_memory.md R73). -/
def Memory.readWord (m : Memory) (a : Nat) : Word :=
  m.readByte (a + 3) ++ m.readByte (a + 2) ++ m.readByte (a + 1) ++ m.readByte a

/-- A 4-byte write is little-endian (R73). -/
def Memory.writeWord (m : Memory) (a : Nat) (v : Word) : Memory :=
  (((m.writeByte a (v.extractLsb' 0 8)).writeByte (a + 1) (v.extractLsb' 8 8)).writeByte (a + 2) (v.extractLsb' 16 8)).writeByte
    (a + 3) (v.extractLsb' 24 8)

/-- The `n` bytes from offset `a` on, in increasing offset (R83). -/
def Memory.readBytes (m : Memory) (a n : Nat) : List Byte :=
  (List.range n).map fun i => m.readByte (a + i)

/-- Store the bytes at offsets `a`, `a + stride`, `a + 2·stride`, …, in this order: the sequential (`stride` = 1) and the strided
addressing of R90. -/
def Memory.writeStrided (m : Memory) (a stride : Nat) : List Byte → Memory
  | [] => m
  | b :: bs => Memory.writeStrided (m.writeByte a b) (a + stride) stride bs

/-- Replace every listed byte by a function of its offset and value. -/
def Memory.mapBytes (f : Nat → Byte → Byte) (m : Memory) : Memory :=
  m.filterMap fun x => if f x.1 x.2 = Memory.unlisted then none else some (x.1, f x.1 x.2)

/-- Store a list of bytes, each at its own offset, in this order. -/
def Memory.writeAll (m : Memory) (ws : List (Nat × Byte)) : Memory :=
  ws.foldl (fun m w => m.writeByte w.1 w.2) m

/-! ### The scratch matrix of MATRIX_BUILD (spec/43_matrix.md R181) -/

/-- Rows of cell bytes; a cell outside reads 0x00, EMPTY (log entry 8). -/
abbrev Grid := List (List Byte)

/-- `M[r][c]`. -/
def Grid.cell (g : Grid) (r c : Nat) : Byte := (g.getD r []).getD c 0#8

/-- `M[r][c] <- b`. -/
def Grid.put (g : Grid) (r c : Nat) (b : Byte) : Grid := g.modify r fun row => row.set c b

/-- `w` by `w` EMPTY cells, step (0) of R181. -/
def Grid.blank (w : Nat) : Grid := List.replicate w (List.replicate w 0#8)

/-- The key of MX[r][c] (spec/10_state.md R49). -/
def mxIndex (r c : Nat) : Nat := Config.mxDim * r + c

/-- `MX <- M` for a matrix of width `w`: every cell outside `w` by `w` becomes EMPTY (R181 step (0), R209). -/
def Grid.toMemory (w : Nat) (g : Grid) : Memory :=
  (List.range w).flatMap fun r => (List.range w).filterMap fun c =>
    if g.cell r c = Memory.unlisted then none else some (mxIndex r c, g.cell r c)

/-- The `w` by `w` cells of MX. -/
def Memory.toGrid (w : Nat) (m : Memory) : Grid :=
  (List.range w).map fun r => (List.range w).map fun c => m.readByte (mxIndex r c)

/-! ### Acceptance, completion and faults -/

/-- The number of a fault code, R271. -/
def FaultCode.code : FaultCode → Byte
  | .illegalCmd => 0x01#8
  | .badK => 0x02#8
  | .badLayout => 0x03#8
  | .badRange => 0x04#8
  | .badVersion => 0x05#8
  | .badAlign => 0x06#8
  | .layoutMismatch => 0x07#8
  | .notBuilt => 0x08#8
  | .gfLogZero => 0x09#8

/-- The first check that fails, in the order written (R281). -/
def firstFault : List (Bool × FaultCode) → Option FaultCode
  | [] => none
  | (fails, c) :: rest => if fails then some c else firstFault rest

/-- Command acceptance (spec/20_memory.md R84). -/
def State.accept (s : State) (w : Word) : State :=
  { s with cmd := w, status := { s.status with done := false }, seq := .exec w }

/-- Completion without a fault: DONE <- 1, SEQ <- IDLE (R85). -/
def State.complete (s : State) : State :=
  { s with status := { s.status with done := true }, seq := .idle }

/-- Taking a fault, the block's one exception mechanism (R85, spec/60_exceptions.md R270, R283): FAULT <- 1, FCODE <- code if FCODE was
0, SEQ <- IDLE. Nothing else changes. -/
def State.raiseFault (s : State) (c : FaultCode) : State :=
  { s with
    status := { s.status with fault := true, fcode := if s.status.fcode = 0#8 then c.code else s.status.fcode }
    seq := .idle }

/-- The end of a command whose checks are `check` and whose successful outcome is `t` (R85, check-then-execute R282). -/
def State.conclude (s : State) (check : Option FaultCode) (t : State) : Host.Outcome State Fault Refusal :=
  match check with
  | some c => .next (s.raiseFault c)
  | none => .next t.complete

/-- The host's acknowledgement of a fault, the block's nearest thing to a return (R288): FAULT <- 0 and FCODE <- 0 (R24). -/
def Status.ackFault (st : Status) : Status := { st with fault := false, fcode := 0#8 }

/-! ### Reset -/

/-- Reset, hardware or soft (spec/70_reset_and_hazards.md R300 to R302): every piece of the block's state takes its reset value at
once and the initialisation starts. The outside world's inputs and the port's last response are not the block's. -/
def State.startReset (s : State) : State := { State.reset with events := s.events, reply := s.reply }

/-! ### Results shared by several commands -/

/-- The registers a command leaves that needs the generator polynomial of length `k` (spec/41_reed_solomon.md R142): GPOLYi is the
coefficient of x^i, GPOLY_K is `k`, GPV is 1. `g` lists the coefficients from x^0 on, so it has none above x^k. -/
def State.setGenerator (s : State) (k : Nat) (g : List Byte) : State :=
  { s with
    gen := { gpoly := Vector.ofFn fun i => g.getD i.val 0#8, gpolyK := BitVec.ofNat 8 k }
    status := { s.status with gpv := true } }

end Sys2Proof.Machine
end

