-- ==== Sys2Proof/Machine/Operands.lean ====
section
/-! DEFINITION. The operand forms of the commands: parameter registers as unsigned values (spec/30_encoding.md R103), the block layout
(spec/42_interleave.md R160 to R162, spec/10_state.md R38), the alignment list (spec/43_matrix.md R186), and the checks several
commands share. -/

namespace Sys2Proof.Machine

/-- `K = RS_K.K`. -/
def Params.k (p : Params) : Nat := p.rsK.toNat

/-- `B1 = ILV_B1.B1`. -/
def Params.b1 (p : Params) : Nat := p.ilvB1.toNat

/-- `D1 = ILV_D1.D1`. -/
def Params.d1 (p : Params) : Nat := p.ilvD1.toNat

/-- `B2 = ILV_B2.B2`. -/
def Params.b2 (p : Params) : Nat := p.ilvB2.toNat

/-- `nb = B1 + B2` blocks (R160). -/
def Params.blocks (p : Params) : Nat := p.b1 + p.b2

/-- `L_b`, the data codewords of block `b` (R160). -/
def Params.blockLen (p : Params) (b : Nat) : Nat := if b < p.b1 then p.d1 else p.d1 + 1

/-- `start_b`, the DBUF offset of block `b` (R162). -/
def Params.blockStart (p : Params) (b : Nat) : Nat := b * p.d1 + (b - p.b1)

/-- DATA_TOTAL (R38). -/
def Params.dataTotal (p : Params) : Nat := p.b1 * p.d1 + p.b2 * (p.d1 + 1)

/-- CW_TOTAL (R38). -/
def Params.cwTotal (p : Params) : Nat := p.dataTotal + p.blocks * p.k

/-- `REM = REMBITS.REM`. -/
def Params.rem (p : Params) : Nat := p.remBits.toNat

/-- `V = VERSION.V`. -/
def Params.v (p : Params) : Nat := p.version.toNat

/-- `P[0 .. m−1]` with `m = ALIGN_CNT.CNT` (R186). -/
def Params.alignList (p : Params) : List Nat := (p.alignPos.toList.take p.alignCnt.toNat).map BitVec.toNat

/-- The symbol width of version `v` (R180). -/
def width (v : Nat) : Nat := 17 + 4 * v

/-- `K = 0 or K > 30`, the condition of BAD_K (R150). -/
def Params.badK (p : Params) : Bool := p.k = 0 || Config.kMax < p.k

/-- `layout_ok` of R161. -/
def Params.layoutOk (p : Params) : Bool :=
  1 ≤ p.b1 && 1 ≤ p.d1 && p.dataTotal ≤ Config.dbufSize && p.cwTotal ≤ Config.cbufSize

/-- `V < 1 or V > 40`, the condition of BAD_VERSION (R180). -/
def Params.badVersion (p : Params) : Bool := p.v < Config.vMin || Config.vMax < p.v

/-- A used alignment coordinate is below 2 or above W − 3, the condition of BAD_ALIGN (R186). -/
def Params.badAlign (p : Params) : Bool := p.alignList.any fun x => x < 2 || width p.v - 3 < x

/-- `N = RS_N.N`. -/
def Params.n (p : Params) : Nat := p.rsN.toNat

/-- `SRC = RS_SRC.SRC`. -/
def Params.src (p : Params) : Nat := p.rsSrc.toNat

/-- `DST = RS_DST.DST`. -/
def Params.dst (p : Params) : Nat := p.rsDst.toNat

/-- `STRIDE = RS_STRIDE.STRIDE`. -/
def Params.stride (p : Params) : Nat := p.rsStride.toNat

/-- The condition of BAD_RANGE for a command that reads `len` bytes from SRC and writes K bytes from DST on (R151, R152; R90: no offset
wraps). -/
def Params.badRange (p : Params) (len : Nat) : Bool :=
  Config.dbufSize < p.src + len || Config.cbufSize - 1 < p.dst + (p.k - 1) * p.stride

end Sys2Proof.Machine
end

