-- ==== Sys2Proof/Machine/Flags.lean ====
section
/-! DEFINITION. The STATUS bits: BUSY, the word a read returns, write-one-to-clear, the two sticky access flags, and the interrupt
output. -/

namespace Sys2Proof.Machine

/-- STATUS.BUSY: 1 exactly when SEQ ≠ IDLE (spec/10_state.md R54). -/
def State.busy (s : State) : Bool := s.seq ≠ .idle

/-- A bit at position 0 of a word. -/
def bitWord (b : Bool) : Word := if b then 1#32 else 0#32

/-- The 32 bits a read of STATUS returns (R24). -/
def State.statusWord (s : State) : Word :=
  bitWord s.busy ||| bitWord s.status.done <<< 1 ||| bitWord s.status.fault <<< 2 ||| bitWord s.status.busyErr <<< 3 |||
    bitWord s.status.addrErr <<< 4 ||| s.status.fcode.setWidth 32 <<< 8 ||| bitWord s.status.built <<< 16 |||
    bitWord s.status.gpv <<< 17

/-- A host write to STATUS: a 1 clears DONE, FAULT (with FCODE), BUSYERR, ADDRERR; every other bit is ignored (R24). -/
def Status.writeOneToClear (st : Status) (v : Word) : Status :=
  let st := if v.getLsbD 2 then st.ackFault else st
  { st with
    done := st.done && !v.getLsbD 1
    busyErr := st.busyErr && !v.getLsbD 3
    addrErr := st.addrErr && !v.getLsbD 4 }

/-- STATUS.ADDRERR <- 1 (spec/20_memory.md R76). -/
def State.setAddrErr (s : State) : State := { s with status := { s.status with addrErr := true } }

/-- STATUS.BUSYERR <- 1 (R80). -/
def State.setBusyErr (s : State) : State := { s with status := { s.status with busyErr := true } }

/-- The interrupt output QRE_IRQ (spec/60_exceptions.md R280). -/
def State.irq (s : State) : Bool := (s.ctrl.ie && s.status.done) || (s.ctrl.fie && s.status.fault)

end Sys2Proof.Machine
end

