-- ==== Sys2Proof/Machine/Gf.lean ====
section
/-! DEFINITION. The field GF(256) (spec/40_gf_arith.md) and the GF commands. -/

namespace Sys2Proof.Machine

/-- Multiplication by x modulo x^8+x^4+x^3+x^2+1 (R121). -/
def xtime (v : Byte) : Byte :=
  ((v.setWidth 9 <<< 1) ^^^ (if v.getLsbD 7 then 0x11D#9 else 0#9)).setWidth 8

/-- `n` values, each the `xtime` of the one before. -/
def xtimesFrom (v : Byte) : Nat → List Byte
  | 0 => []
  | n + 1 => v :: xtimesFrom (xtime v) n

/-- The table EXP[0..254] (R121). -/
def expTable : List Byte := xtimesFrom 0x01#8 255

/-- `α^i = EXP[i mod 255]` (R121). -/
def gfExp (i : Nat) : Byte := expTable.getD (i % 255) 0#8

/-- `LOG[a]`, the place of `a` in EXP (R122). No rule reads it for a = 0. -/
def gfLog (a : Byte) : Nat := expTable.idxOf a

/-- The field multiplication `a ⊗ b` (R124). -/
def gfMul (a b : Byte) : Byte :=
  if a = 0#8 ∨ b = 0#8 then 0#8 else gfExp ((gfLog a + gfLog b) % 255)

/-- GF_MUL, R130. -/
def execGfMul (s : State) : Host.Outcome State Fault Refusal :=
  s.conclude none { s with gfR := gfMul s.params.gfA s.params.gfB }

/-- GF_EXP, R131. -/
def execGfExp (s : State) : Host.Outcome State Fault Refusal :=
  s.conclude none { s with gfR := gfExp s.params.gfA.toNat }

/-- GF_LOG, R132. -/
def execGfLog (s : State) : Host.Outcome State Fault Refusal :=
  s.conclude (firstFault [(s.params.gfA = 0#8, .gfLogZero)]) { s with gfR := BitVec.ofNat 8 (gfLog s.params.gfA) }

end Sys2Proof.Machine
end

