-- ==== Sys2Proof/Machine/ReedSolomon.lean ====
section
/-! DEFINITION. Generator polynomial, ECC codewords and syndromes (spec/41_reed_solomon.md), and the RS commands. -/

namespace Sys2Proof.Machine

/-- The product of a polynomial, its coefficients from x^0 on, and the linear factor `x ⊕ a` (one pass of R141). -/
def mulLinear (g : List Byte) (a : Byte) : List Byte :=
  List.zipWith (· ^^^ ·) (0#8 :: g) (g.map (gfMul · a) ++ [0#8])

/-- The coefficients g_0 .. g_K of the generator polynomial (R140, computed as R141). -/
def genPoly (k : Nat) : List Byte :=
  (List.range k).foldl (fun g i => mulLinear g (gfExp i)) [0x01#8]

/-- One step of the shift register of R144: `rem` is the remainder, highest power first, and `gHigh` is g_(K−1) .. g_0. -/
def eccStep (gHigh rem : List Byte) (d : Byte) : List Byte :=
  let fb := d ^^^ rem.headD 0#8
  List.zipWith (fun x g => x ^^^ gfMul fb g) (rem.tail ++ [0#8]) gHigh

/-- ECC(d, K) (R143, computed as R144): the K remainder bytes, highest power first. -/
def ecc (d : List Byte) (k : Nat) : List Byte :=
  d.foldl (eccStep ((genPoly k).take k).reverse) (List.replicate k 0#8)

/-- C(x), by Horner, for the codeword `c`, highest power first (R148). -/
def evalPoly (c : List Byte) (x : Byte) : Byte := c.foldl (fun acc y => gfMul acc x ^^^ y) 0#8

/-- The K syndromes S_0 .. S_(K−1) of a codeword (R148). -/
def syndromes (c : List Byte) (k : Nat) : List Byte := (List.range k).map fun i => evalPoly c (gfExp i)

/-- GEN_POLY, R150. -/
def execGenPoly (s : State) : Host.Outcome State Fault Refusal :=
  s.conclude (firstFault [(s.params.badK, .badK)]) (s.setGenerator s.params.k (genPoly s.params.k))

/-- The writes of RS_BLOCK, R151: e_j to CBUF[DST + j·STRIDE] in increasing j, and the generator registers. -/
def State.rsBlockWrites (s : State) : State :=
  let e := ecc (s.dbuf.readBytes s.params.src s.params.n) s.params.k
  { s with cbuf := s.cbuf.writeStrided s.params.dst s.params.stride e }.setGenerator s.params.k (genPoly s.params.k)

/-- RS_BLOCK, R151. -/
def execRsBlock (s : State) : Host.Outcome State Fault Refusal :=
  s.conclude (firstFault [(s.params.badK, .badK), (s.params.badRange s.params.n, .badRange)]) s.rsBlockWrites

/-- The writes of RS_SYND, R152: S_i to CBUF[DST + i·STRIDE] in increasing i, and RS_SYNDZ. -/
def State.rsSyndWrites (s : State) : State :=
  let c := s.dbuf.readBytes s.params.src (s.params.n + s.params.k)
  let syn := syndromes c s.params.k
  { s with
    cbuf := s.cbuf.writeStrided s.params.dst s.params.stride syn
    rsSyndz := syn.all fun x => x = 0#8 }

/-- RS_SYND, R152. -/
def execRsSynd (s : State) : Host.Outcome State Fault Refusal :=
  s.conclude (firstFault [(s.params.badK, .badK), (s.params.badRange (s.params.n + s.params.k), .badRange)]) s.rsSyndWrites

end Sys2Proof.Machine
end

