-- ==== Sys2Proof/Machine/Interleave.lean ====
section
/-! DEFINITION. Block slicing, per-block ECC and interleaving (spec/42_interleave.md), and INTERLEAVE. -/

namespace Sys2Proof.Machine

/-- `data_b`, the data codewords of block `b` (R162). -/
def blockData (p : Params) (dbuf : Memory) (b : Nat) : List Byte := dbuf.readBytes (p.blockStart b) (p.blockLen b)

/-- The data part of the interleaved sequence (R164): codeword j of every block that has one, for j up to the longest block. -/
def interleavedData (p : Params) (dbuf : Memory) : List Byte :=
  (List.range (p.d1 + if 0 < p.b2 then 1 else 0)).flatMap fun j =>
    (List.range p.blocks).filterMap fun b =>
      if j < p.blockLen b then some (dbuf.readByte (p.blockStart b + j)) else none

/-- `E_b`, the ECC codewords of every block, in block order (R163). -/
def blockEccs (p : Params) (dbuf : Memory) : List (List Byte) :=
  (List.range p.blocks).map fun b => ecc (blockData p dbuf b) p.k

/-- The ECC part of the interleaved sequence (R165): ECC codeword j of every block, for j = 0 .. K−1. -/
def interleavedEcc (p : Params) (dbuf : Memory) : List Byte :=
  let es := blockEccs p dbuf
  (List.range p.k).flatMap fun j => es.map fun e => e.getD j 0#8

/-- The interleaved sequence, CW_TOTAL codewords (R164 to R166). -/
def interleaved (p : Params) (dbuf : Memory) : List Byte := interleavedData p dbuf ++ interleavedEcc p dbuf

/-- The writes of INTERLEAVE, R170: CBUF[0 .. CW_TOTAL−1] and the generator registers. -/
def State.interleaveWrites (s : State) : State :=
  { s with cbuf := s.cbuf.writeStrided 0 1 (interleaved s.params s.dbuf) }.setGenerator s.params.k (genPoly s.params.k)

/-- INTERLEAVE, R170. -/
def execInterleave (s : State) : Host.Outcome State Fault Refusal :=
  s.conclude (firstFault [(s.params.badK, .badK), (!s.params.layoutOk, .badLayout)]) s.interleaveWrites

end Sys2Proof.Machine
end

