-- ==== Sys2Proof/Machine/Matrix.lean ====
section
/-! DEFINITION. Function patterns, format area, count check and data placement (spec/43_matrix.md), and MATRIX_BUILD. -/

namespace Sys2Proof.Machine

/-! ### Cells (spec/10_state.md R50) -/

/-- KIND, bits 1..0. -/
def cellKind (b : Byte) : Kind :=
  match (b.extractLsb' 0 2).toNat with
  | 0 => .empty
  | 1 => .func
  | 2 => .data
  | _ => .fmt

/-- DARK, bit 2. -/
def cellDark (b : Byte) : Bool := b.getLsbD 2

/-- RAW, bit 3. -/
def cellRaw (b : Byte) : Bool := b.getLsbD 3

/-- The two bits of a kind. -/
def Kind.bits : Kind → Byte
  | .empty => 0#8
  | .func => 1#8
  | .data => 2#8
  | .fmt => 3#8

/-- The cell `{KIND, DARK, RAW}`. -/
def mkCell (k : Kind) (dark raw : Bool) : Byte :=
  k.bits ||| (if dark then 4#8 else 0#8) ||| (if raw then 8#8 else 0#8)

/-- `cell.DARK <- dark`. -/
def setDark (b : Byte) (dark : Bool) : Byte := (b &&& 0xFB#8) ||| (if dark then 4#8 else 0#8)

/-! ### The function patterns, as the writes of the steps of R181 in order -/

/-- A write to the scratch matrix: row, column, cell. -/
abbrev CellWrite := Nat × Nat × Byte

/-- `setf(r, c, d)`, R182. -/
def setf (r c : Nat) (d : Bool) : CellWrite := (r, c, mkCell .func d false)

/-- `setfmt(r, c)`, R182. -/
def setfmt (r c : Nat) : CellWrite := (r, c, mkCell .fmt false false)

/-- `|x − y|`. -/
def absDiff (x y : Nat) : Nat := (x - y) + (y - x)

/-- A `2·h+1` square of rings whose top-left corner is (r0, c0): light exactly in the ring at Chebyshev distance `light` from the
centre. -/
def ringSquare (h light r0 c0 : Nat) : List CellWrite :=
  (List.range (2 * h + 1)).flatMap fun i => (List.range (2 * h + 1)).map fun j =>
    setf (r0 + i) (c0 + j) (max (absDiff i h) (absDiff j h) ≠ light)

/-- Step (1), finder patterns, R183. -/
def finderWrites (w : Nat) : List CellWrite :=
  ringSquare 3 2 0 0 ++ ringSquare 3 2 0 (w - 7) ++ ringSquare 3 2 (w - 7) 0

/-- Step (2), separators, R184. -/
def separatorWrites (w : Nat) : List CellWrite :=
  (List.range 8).flatMap fun i =>
    [setf 7 i false, setf i 7 false, setf 7 (w - 1 - i) false, setf i (w - 8) false, setf (w - 8) i false, setf (w - 1 - i) 7 false]

/-- Step (3), timing patterns, R185: i = 8 .. W−9. -/
def timingWrites (w : Nat) : List CellWrite :=
  (List.range (w - 16)).flatMap fun n =>
    let i := n + 8
    [setf 6 i (i % 2 = 0), setf i 6 (i % 2 = 0)]

/-- The alignment centres (row, column), R187: every pair but the three at the finder corners. -/
def alignmentCentres (ps : List Nat) : List (Nat × Nat) :=
  let m := ps.length
  (List.range m).flatMap fun a => (List.range m).filterMap fun b =>
    if (a = 0 ∧ b = 0) ∨ (a = 0 ∧ b = m - 1) ∨ (a = m - 1 ∧ b = 0) then none else some (ps.getD a 0, ps.getD b 0)

/-- Step (4), alignment patterns, R187 and R188. -/
def alignmentWrites (ps : List Nat) : List CellWrite :=
  (alignmentCentres ps).flatMap fun p => ringSquare 2 1 (p.1 - 2) (p.2 - 2)

/-- One step of the BCH remainder of R189, on a 13-bit value. -/
def verRemStep (rem : BitVec 13) : BitVec 13 := (rem <<< 1) ^^^ (if rem.getLsbD 11 then 0x1F25#13 else 0#13)

/-- VERWORD(V), R189. -/
def verWord (v : Nat) : BitVec 18 :=
  let rem := (List.range 12).foldl (fun r _ => verRemStep r) (BitVec.ofNat 13 v)
  (BitVec.ofNat 18 v <<< 12) ||| (rem.extractLsb' 0 12).setWidth 18

/-- The word VER_BITS takes, R190: VERWORD(V) for V ≥ 7, else 0. -/
def verBitsOf (v : Nat) : BitVec 18 := if 7 ≤ v then verWord v else 0#18

/-- Step (5), version information, R190, for V ≥ 7 only. -/
def versionWrites (v w : Nat) : List CellWrite :=
  if 7 ≤ v then
    (List.range 18).flatMap fun i =>
      [setf (i / 3) (w - 11 + i % 3) ((verWord v).getLsbD i), setf (w - 11 + i % 3) (i / 3) ((verWord v).getLsbD i)]
  else []

/-- FmtPos(W), R191: the 30 format positions (row, column), each with its bit index k. -/
def formatPositions (w : Nat) : List (Nat × Nat × Nat) :=
  ((List.range 6).map fun k => (k, 8, k)) ++ [(7, 8, 6), (8, 8, 7), (8, 7, 8)] ++
    ((List.range 6).map fun n => (8, 5 - n, n + 9)) ++ ((List.range 8).map fun k => (8, w - 1 - k, k)) ++
    ((List.range 7).map fun n => (w - 7 + n, 8, n + 8))

/-- Step (6), format-area reservation, R191. -/
def formatWrites (w : Nat) : List CellWrite := (formatPositions w).map fun p => setfmt p.1 p.2.1

/-- Step (7), the dark module, R192. -/
def darkModuleWrite (w : Nat) : CellWrite := setf (w - 8) 8 true

/-- Steps (1) to (7) of R181, in order. -/
def layoutWrites (v : Nat) (ps : List Nat) : List CellWrite :=
  let w := width v
  finderWrites w ++ separatorWrites w ++ timingWrites w ++ alignmentWrites ps ++ versionWrites v w ++ formatWrites w ++
    [darkModuleWrite w]

/-- Perform writes on a scratch matrix, a later one overwriting an earlier one (R181). -/
def Grid.putAll (g : Grid) (ws : List CellWrite) : Grid := ws.foldl (fun g x => g.put x.1 x.2.1 x.2.2) g

/-- The scratch matrix M after steps (0) to (7) of R181. -/
def layout (v : Nat) (ps : List Nat) : Grid := (Grid.blank (width v)).putAll (layoutWrites v ps)

/-- F, the number of free modules, R200. -/
def freeModules (g : Grid) : Nat := (g.map fun row => row.countP fun b => cellKind b = .empty).sum

/-! ### Data placement -/

/-- The right columns of the strips, R204: W−1, W−3, …, 8, then 5, 3, 1. The first argument bounds the loop. -/
def stripColumns : Nat → Nat → List Nat
  | 0, _ => []
  | fuel + 1, right =>
    if right = 0 then []
    else
      let right := if right = 6 then 5 else right
      right :: stripColumns fuel (right - 2)

/-- The cells in the order R204 visits them: strips alternately upward and downward, the right column first. -/
def zigzag (w : Nat) : List (Nat × Nat) :=
  (stripColumns w (w - 1)).zipIdx.flatMap fun x => (List.range w).flatMap fun v =>
    let r := if x.2 % 2 = 0 then w - 1 - v else v
    [(r, x.1), (r, x.1 - 1)]

/-- `bit[t]` of R203: the codewords most significant bit first, then 0 for the remainder bits. -/
def placementBit (cbuf : Memory) (n t : Nat) : Bool :=
  if t < 8 * n then (cbuf.readByte (t / 8)).getLsbD (7 - t % 8) else false

/-- The free modules q_0, q_1, … in visiting order, R205. -/
def freeOrder (w : Nat) (g : Grid) : List (Nat × Nat) := (zigzag w).filter fun p => cellKind (g.cell p.1 p.2) = .empty

/-- The writes of R205: q_t gets KIND = DATA and DARK = RAW = bit[t]. -/
def placementWrites (w n : Nat) (cbuf : Memory) (g : Grid) : List CellWrite :=
  (freeOrder w g).zipIdx.map fun x =>
    (x.1.1, x.1.2, mkCell .data (placementBit cbuf n x.2) (placementBit cbuf n x.2))

/-- The complete matrix of MATRIX_BUILD. -/
@[irreducible] def builtGrid (p : Params) (cbuf : Memory) : Grid :=
  let g := layout p.v p.alignList
  g.putAll (placementWrites (width p.v) p.cwTotal cbuf g)

/-! ### The command -/

/-- The checks of MATRIX_BUILD before the count check, in the order of R211. -/
def Params.buildChecks (p : Params) : List (Bool × FaultCode) :=
  [(p.badK, .badK), (!p.layoutOk, .badLayout), (p.badVersion, .badVersion), (p.badAlign, .badAlign)]

/-- F for the version and alignment list in the parameter registers. -/
@[irreducible] def Params.freeCount (p : Params) : Nat := freeModules (layout p.v p.alignList)

/-- The count check fails, R201. -/
def Params.mismatch (p : Params) : Bool := p.freeCount ≠ 8 * p.cwTotal + p.rem

/-- `DATA_MODULES <- F`, R201. -/
def State.recordFreeCount (s : State) : State :=
  { s with symbol := { s.symbol with dataModules := BitVec.ofNat 16 s.params.freeCount } }

/-- The writes of a successful MATRIX_BUILD, R210 and R211 (DATA_MODULES is `recordFreeCount`'s). -/
def State.buildWrites (s : State) : State :=
  { s with
    mx := (builtGrid s.params s.cbuf).toMemory (width s.params.v)
    symbol :=
      { s.symbol with
        mxVer := s.params.version
        maskSel := MaskField.reset
        fmtBits := 0#15
        verBits := verBitsOf s.params.v }
    pen := PenaltyRegs.reset
    status := { s.status with built := true } }

/-- The end of a command that builds: the earlier checks; then DATA_MODULES; then the count check; then the writes `t` of success
(R201, R211, R261). -/
def State.concludeBuild (s : State) (t : State) : Host.Outcome State Fault Refusal :=
  match firstFault s.params.buildChecks with
  | some c => .next (s.raiseFault c)
  | none => if s.params.mismatch then .next (s.recordFreeCount.raiseFault .layoutMismatch) else .next t.complete

/-- MATRIX_BUILD, R211. -/
def execMatrixBuild (s : State) : Host.Outcome State Fault Refusal := s.concludeBuild s.recordFreeCount.buildWrites

end Sys2Proof.Machine
end

