-- ==== Sys2Proof/Machine/Mask.lean ====
section
/-! DEFINITION. Mask conditions, penalty rules, selection, format information and commit (spec/44_mask.md), and the mask commands. -/

namespace Sys2Proof.Machine

/-! ### Masks and format word -/

/-- `maskbit_m(r, c)`, R221 and R222. -/
def maskBit (m : BitVec 3) (r c : Nat) : Bool :=
  match m.toNat with
  | 0 => (r + c) % 2 = 0
  | 1 => r % 2 = 0
  | 2 => c % 3 = 0
  | 3 => (r + c) % 3 = 0
  | 4 => (r / 2 + c / 3) % 2 = 0
  | 5 => (r * c) % 2 + (r * c) % 3 = 0
  | 6 => ((r * c) % 2 + (r * c) % 3) % 2 = 0
  | _ => ((r + c) % 2 + (r * c) % 3) % 2 = 0

/-- The error-correction level bits of the format word, R231. -/
def ecBits (lvl : BitVec 2) : BitVec 2 :=
  match lvl.toNat with
  | 0 => 0b01#2
  | 1 => 0b00#2
  | 2 => 0b11#2
  | _ => 0b10#2

/-- One step of the BCH remainder of R232, on an 11-bit value. -/
def fmtRemStep (rem : BitVec 11) : BitVec 11 := (rem <<< 1) ^^^ (if rem.getLsbD 9 then 0x537#11 else 0#11)

/-- FMTWORD(lvl, m), R232. -/
def fmtWord (lvl : BitVec 2) (m : BitVec 3) : BitVec 15 :=
  let d : BitVec 5 := ecBits lvl ++ m
  let rem := (List.range 10).foldl (fun r _ => fmtRemStep r) (d.setWidth 11)
  (d ++ rem.extractLsb' 0 10) ^^^ 0x5412#15

/-! ### Candidate colour plane, R223 -/

/-- Rows of module colours, `true` = dark. -/
abbrev Plane := List (List Bool)

/-- The bit index k of a format position, if (r, c) is one (R191). -/
def formatIndex (w r c : Nat) : Option Nat :=
  ((formatPositions w).find? fun p => p.1 = r && p.2.1 = c).map fun p => p.2.2

/-- The colour of a module under mask `m` with format word `fw`, R223. The last line and an FMT cell that is no format position cannot
occur in a built matrix (R220; log entry 5). -/
def moduleColour (fw : BitVec 15) (m : BitVec 3) (w r c : Nat) (b : Byte) : Bool :=
  match cellKind b with
  | .data => cellRaw b ^^ maskBit m r c
  | .func => cellDark b
  | .fmt =>
    match formatIndex w r c with
    | some k => fw.getLsbD k
    | none => cellDark b
  | .empty => cellDark b

/-- `col_m`, R223, from the cells of MX. -/
def candidate (fw : BitVec 15) (m : BitVec 3) (w : Nat) (cells : Grid) : Plane :=
  (List.range w).map fun r =>
    let row := cells.getD r []
    (List.range w).map fun c => moduleColour fw m w r c (row.getD c 0#8)

/-! ### Penalty rules -/

/-- The columns of a plane of width `w`. -/
def columns (w : Nat) (p : Plane) : Plane := (List.range w).map fun c => p.map fun row => row.getD c false

/-- The 2·W lines: the rows and the columns. -/
def lines (w : Nat) (p : Plane) : List (List Bool) := p ++ columns w p

/-- The lengths of the maximal runs of a line that goes on after `n` modules of colour `cur`. -/
def runsFrom (cur : Bool) (n : Nat) : List Bool → List Nat
  | [] => [n]
  | x :: xs => if x = cur then runsFrom cur (n + 1) xs else n :: runsFrom x 1 xs

/-- The lengths of the maximal runs of a line, R224. -/
def runs : List Bool → List Nat
  | [] => []
  | x :: xs => runsFrom x 1 xs

/-- What a run scores, R224. -/
def runScore (len : Nat) : Nat := if 5 ≤ len then 3 + (len - 5) else 0

/-- Rule (a) on one line. -/
def lineRuns (l : List Bool) : Nat := ((runs l).map runScore).sum

/-- PEN_A, R224. -/
def penaltyA (w : Nat) (p : Plane) : Nat := ((lines w p).map lineRuns).sum

/-- Rule (b) on two adjacent rows: 3 for every window of one colour. -/
def rowBlocks : List Bool → List Bool → Nat
  | a :: b :: t, c :: d :: u => (if a = b ∧ a = c ∧ a = d then 3 else 0) + rowBlocks (b :: t) (d :: u)
  | _, _ => 0

/-- PEN_B, R225: all (W − 1)² overlapping windows. -/
def penaltyB : Plane → Nat
  | r₁ :: r₂ :: rest => rowBlocks r₁ r₂ + penaltyB (r₂ :: rest)
  | _ => 0

/-- `core and (left or right)` of R226 for the 15 modules from four before the start on. -/
def finderLike (win : List Bool) : Bool :=
  (win.drop 4).take 7 = [true, false, true, true, true, false, true] &&
    (win.take 4 = [false, false, false, false] || win.drop 11 = [false, false, false, false])

/-- Rule (c) on one line: every start x with 0 ≤ x ≤ W − 7, modules outside the symbol being light. -/
def lineFinders (w : Nat) (l : List Bool) : Nat :=
  let padded := List.replicate 4 false ++ l ++ List.replicate 4 false
  40 * (List.range (w - 6)).countP fun x => finderLike ((padded.drop x).take 15)

/-- PEN_C, R226. -/
def penaltyC (w : Nat) (p : Plane) : Nat := ((lines w p).map (lineFinders w)).sum

/-- The dark-module count of a plane. -/
def darkCount (p : Plane) : Nat := (p.map fun row => row.countP fun x => x).sum

/-- PEN_D, R227, for `d` dark modules of width `w`. -/
def penaltyD (w d : Nat) : Nat := 10 * (absDiff (20 * d) (10 * (w * w)) / (w * w))

/-- The score of a candidate, R224 to R227. -/
def scorePlane (w : Nat) (p : Plane) : Score :=
  { a := penaltyA w p, b := penaltyB p, c := penaltyC w p, d := penaltyD w (darkCount p), dark := darkCount p }

/-- `P_m`, R228. -/
def Score.total (x : Score) : Nat := x.a + x.b + x.c + x.d

/-- The width of the matrix in MX (R220): of MX_VER, not of VERSION. -/
def State.mxWidth (s : State) : Nat := width s.symbol.mxVer.toNat

/-- The score of mask `m` on given cells at the current LEVEL. -/
@[irreducible] def State.scoreOn (s : State) (cells : Grid) (m : BitVec 3) : Score :=
  scorePlane s.mxWidth (candidate (fmtWord s.params.level m) m s.mxWidth cells)

/-- The score of mask `m` on the matrix in MX at the current LEVEL. -/
def State.score (s : State) (m : BitVec 3) : Score := s.scoreOn (s.mx.toGrid s.mxWidth) m

/-! ### Selection -/

/-- One turn of the loop of R242: keep the first strict minimum. -/
def keepFirstLeast (best : Option (Nat × Nat)) (x : Nat × Nat) : Option (Nat × Nat) :=
  match best with
  | none => some x
  | some b => if x.1 < b.1 then some x else some b

/-- The selected mask, R230: the place of the first least total. -/
def selectMask (totals : List Nat) : Nat :=
  match totals.zipIdx.foldl keepFirstLeast none with
  | some b => b.2
  | none => 0

/-! ### Writes -/

/-- The breakdown registers and PEN_MASK for mask `m`, R240. -/
def PenaltyRegs.setBreakdown (p : PenaltyRegs) (m : BitVec 3) (x : Score) : PenaltyRegs :=
  { p with
    penA := BitVec.ofNat 32 x.a
    penB := BitVec.ofNat 32 x.b
    penC := BitVec.ofNat 32 x.c
    penD := BitVec.ofNat 32 x.d
    darkCnt := BitVec.ofNat 16 x.dark
    penMask := { mask := m, valid := true } }

/-- The writes of MASK_SCORE, R240. -/
def State.scoreWrites (s : State) (m : BitVec 3) : State :=
  let x := s.score m
  { s with pen := { s.pen.setBreakdown m x with penalty := s.pen.penalty.set m.toNat (BitVec.ofNat 32 x.total) m.isLt } }

/-- The commit of a data module, R235. -/
def commitCell (m : BitVec 3) (j : Nat) (b : Byte) : Byte :=
  if cellKind b = .data then setDark b (cellRaw b ^^ maskBit m (j / Config.mxDim) (j % Config.mxDim)) else b

/-- The writes of the format bits, R233, on the matrix `mx`. -/
def formatCommits (fw : BitVec 15) (w : Nat) (mx : Memory) : List (Nat × Byte) :=
  (formatPositions w).map fun p =>
    (mxIndex p.1 p.2.1, setDark (mx.readByte (mxIndex p.1 p.2.1)) (fw.getLsbD p.2.2))

/-- MX after the commit of mask `m` with format word `fw` (R233, R235). -/
def commitMatrix (fw : BitVec 15) (m : BitVec 3) (w : Nat) (mx : Memory) : Memory :=
  let mx := mx.mapBytes (commitCell m)
  mx.writeAll (formatCommits fw w mx)

/-- The writes of MASK_COMMIT, R241. -/
def State.commitWrites (s : State) (m : BitVec 3) : State :=
  let fw := fmtWord s.params.level m
  { s with
    mx := commitMatrix fw m s.mxWidth s.mx
    symbol := { s.symbol with maskSel := { mask := m, valid := true }, fmtBits := fw } }

/-- The scores of the eight candidates, in order (R242). -/
def State.allScores (s : State) : List Score :=
  let cells := s.mx.toGrid s.mxWidth
  (List.range 8).map fun m => s.scoreOn cells (BitVec.ofNat 3 m)

/-- The writes of MASK_AUTO, R242: all eight totals, the winner's breakdown, and the commit of the winner. -/
def State.autoWrites (s : State) : State :=
  let xs := s.allScores
  let best := selectMask (xs.map Score.total)
  let m := BitVec.ofNat 3 best
  let x := xs.getD best { a := 0, b := 0, c := 0, d := 0, dark := 0 }
  { s with
    pen :=
      { s.pen.setBreakdown m x with
        penalty := Vector.ofFn fun i => BitVec.ofNat 32 ((xs.map Score.total).getD i.val 0) } }.commitWrites m

/-- The check of the mask commands (R220). -/
def State.maskChecks (s : State) : Option FaultCode := firstFault [(!s.status.built, .notBuilt)]

/-- MASK_SCORE m, R240. -/
def execMaskScore (m : Nat) (s : State) : Host.Outcome State Fault Refusal :=
  s.conclude s.maskChecks (s.scoreWrites (BitVec.ofNat 3 m))

/-- MASK_COMMIT m, R241. -/
def execMaskCommit (m : Nat) (s : State) : Host.Outcome State Fault Refusal :=
  s.conclude s.maskChecks (s.commitWrites (BitVec.ofNat 3 m))

/-- MASK_AUTO, R242. -/
def execMaskAuto (s : State) : Host.Outcome State Fault Refusal := s.conclude s.maskChecks s.autoWrites

end Sys2Proof.Machine
end

