-- ==== Sys2Proof/Machine/Control.lean ====
section
/-! DEFINITION. The control commands (spec/45_control.md). -/

namespace Sys2Proof.Machine

/-- NOP, R260. -/
def execNop (s : State) : Host.Outcome State Fault Refusal := s.conclude none s

/-- ENCODE_ALL, R261: all checks first, then INTERLEAVE's writes, MATRIX_BUILD's and MASK_AUTO's. -/
def execEncodeAll (s : State) : Host.Outcome State Fault Refusal :=
  s.concludeBuild s.interleaveWrites.recordFreeCount.buildWrites.autoWrites

end Sys2Proof.Machine
end

