-- ==== Sys2Proof/Machine/Dispatch.lean ====
section
/-! DEFINITION. Which meaning each command has: one arm per constructor of Instr. -/

namespace Sys2Proof.Machine

def exec (i : Instr) (s : State) : Host.Outcome State Fault Refusal :=
  match i with
  | .nop => Sys2Proof.Machine.execNop s
  | .gfMul => Sys2Proof.Machine.execGfMul s
  | .gfExp => Sys2Proof.Machine.execGfExp s
  | .gfLog => Sys2Proof.Machine.execGfLog s
  | .genPoly => Sys2Proof.Machine.execGenPoly s
  | .rsBlock => Sys2Proof.Machine.execRsBlock s
  | .rsSynd => Sys2Proof.Machine.execRsSynd s
  | .interleave => Sys2Proof.Machine.execInterleave s
  | .matrixBuild => Sys2Proof.Machine.execMatrixBuild s
  | .maskScore m => Sys2Proof.Machine.execMaskScore m s
  | .maskCommit m => Sys2Proof.Machine.execMaskCommit m s
  | .maskAuto => Sys2Proof.Machine.execMaskAuto s
  | .encodeAll => Sys2Proof.Machine.execEncodeAll s

end Sys2Proof.Machine
end

