-- ==== Sys2Proof/Machine/Port.lean ====
section
/-! DEFINITION. The host port (spec/20_memory.md): the address map, the register file as the host reads and writes it
(spec/10_state.md section 2), the checks on an access, and the access itself. -/

namespace Sys2Proof.Machine

/-! ### The address map -/

/-- The register of word `k` of the register region, offset 4·k (spec/10_state.md section 2, R44, R45). -/
def regAt (k : Nat) : Reg :=
  match k with
  | 0 => .id
  | 1 => .ctrl
  | 2 => .status
  | 3 => .cmd
  | 4 => .version
  | 5 => .level
  | 6 => .rsK
  | 7 => .ilvB1
  | 8 => .ilvD1
  | 9 => .ilvB2
  | 10 => .rsN
  | 11 => .rsSrc
  | 12 => .rsDst
  | 13 => .rsStride
  | 14 => .gfA
  | 15 => .gfB
  | 16 => .gfR
  | 17 => .remBits
  | 18 => .alignCnt
  | 28 => .mxVer
  | 29 => .maskSel
  | 30 => .fmtBits
  | 31 => .verBits
  | 32 => .cwTotal
  | 33 => .dataTotal
  | 34 => .dataModules
  | 35 => .rsSyndz
  | 36 => .penA
  | 37 => .penB
  | 38 => .penC
  | 39 => .penD
  | 40 => .darkCnt
  | 41 => .penMask
  | 42 => .gpolyK
  | k =>
    if h : 19 ≤ k ∧ k < 26 then .alignPos ⟨k - 19, by omega⟩
    else if h : 48 ≤ k ∧ k < 56 then .penalty ⟨k - 48, by omega⟩
    else if h : 64 ≤ k ∧ k < 96 then .gpoly ⟨k - 64, by omega⟩
    else .reserved

/-- The offset of a register (spec/10_state.md section 2; for `reserved`, the first reserved offset). -/
def Reg.offset : Reg → Offset
  | .id => 0x000#16
  | .ctrl => 0x004#16
  | .status => 0x008#16
  | .cmd => 0x00C#16
  | .version => 0x010#16
  | .level => 0x014#16
  | .rsK => 0x018#16
  | .ilvB1 => 0x01C#16
  | .ilvD1 => 0x020#16
  | .ilvB2 => 0x024#16
  | .rsN => 0x028#16
  | .rsSrc => 0x02C#16
  | .rsDst => 0x030#16
  | .rsStride => 0x034#16
  | .gfA => 0x038#16
  | .gfB => 0x03C#16
  | .gfR => 0x040#16
  | .remBits => 0x044#16
  | .alignCnt => 0x048#16
  | .alignPos i => BitVec.ofNat 16 (0x04C + 4 * i.val)
  | .mxVer => 0x070#16
  | .maskSel => 0x074#16
  | .fmtBits => 0x078#16
  | .verBits => 0x07C#16
  | .cwTotal => 0x080#16
  | .dataTotal => 0x084#16
  | .dataModules => 0x088#16
  | .rsSyndz => 0x08C#16
  | .penA => 0x090#16
  | .penB => 0x094#16
  | .penC => 0x098#16
  | .penD => 0x09C#16
  | .darkCnt => 0x0A0#16
  | .penMask => 0x0A4#16
  | .gpolyK => 0x0A8#16
  | .penalty m => BitVec.ofNat 16 (0x0C0 + 4 * m.val)
  | .gpoly i => BitVec.ofNat 16 (0x100 + 4 * i.val)
  | .reserved => 0x068#16

/-- The address map of the window, R71. -/
def placeOf (off : Offset) : Place :=
  let a := off.toNat
  if a < 0x180 then .reg (regAt (a / 4))
  else if a < 0x1000 then .unmapped
  else if a < 0x2000 then .dbuf (a - 0x1000)
  else if a < 0x3000 then .cbuf (a - 0x2000)
  else if a < 0x8000 then .unmapped
  else .mx (a - 0x8000)

/-! ### Registers as the host sees them -/

/-- A mask field as a register: MASK in bits 2..0, VALID in bit 8 (R35, R42). -/
def MaskField.word (f : MaskField) : Word := f.mask.setWidth 32 ||| bitWord f.valid <<< 8

/-- What a read of a register returns; unimplemented and write-only bits read 0 (R21). -/
def State.readReg (s : State) : Reg → Word
  | .id => Config.idValue
  | .ctrl => bitWord s.ctrl.ie ||| bitWord s.ctrl.fie <<< 1
  | .status => s.statusWord
  | .cmd => s.cmd
  | .version => s.params.version.setWidth 32
  | .level => s.params.level.setWidth 32
  | .rsK => s.params.rsK.setWidth 32
  | .ilvB1 => s.params.ilvB1.setWidth 32
  | .ilvD1 => s.params.ilvD1.setWidth 32
  | .ilvB2 => s.params.ilvB2.setWidth 32
  | .rsN => s.params.rsN.setWidth 32
  | .rsSrc => s.params.rsSrc.setWidth 32
  | .rsDst => s.params.rsDst.setWidth 32
  | .rsStride => s.params.rsStride.setWidth 32
  | .gfA => s.params.gfA.setWidth 32
  | .gfB => s.params.gfB.setWidth 32
  | .gfR => s.gfR.setWidth 32
  | .remBits => s.params.remBits.setWidth 32
  | .alignCnt => s.params.alignCnt.setWidth 32
  | .alignPos i => s.params.alignPos[i].setWidth 32
  | .mxVer => s.symbol.mxVer.setWidth 32
  | .maskSel => s.symbol.maskSel.word
  | .fmtBits => s.symbol.fmtBits.setWidth 32
  | .verBits => s.symbol.verBits.setWidth 32
  | .cwTotal => (BitVec.ofNat 18 s.params.cwTotal).setWidth 32
  | .dataTotal => (BitVec.ofNat 18 s.params.dataTotal).setWidth 32
  | .dataModules => s.symbol.dataModules.setWidth 32
  | .rsSyndz => bitWord s.rsSyndz
  | .penA => s.pen.penA
  | .penB => s.pen.penB
  | .penC => s.pen.penC
  | .penD => s.pen.penD
  | .darkCnt => s.pen.darkCnt.setWidth 32
  | .penMask => s.pen.penMask.word
  | .gpolyK => s.gen.gpolyK.setWidth 32
  | .penalty m => s.pen.penalty[m]
  | .gpoly i => s.gen.gpoly[i].setWidth 32
  | .reserved => 0#32

/-- A host write to CTRL (R23, spec/70_reset_and_hazards.md R302): SRST = 1 resets and discards the other bits. -/
def State.writeCtrl (s : State) (v : Word) : State :=
  if v.getLsbD 31 then s.startReset else { s with ctrl := { ie := v.getLsbD 0, fie := v.getLsbD 1 } }

/-- A host write to a parameter register keeps the field's bits only and checks nothing (R21). A register that is no parameter
register is left as it is. -/
def Params.write (p : Params) (r : Reg) (v : Word) : Params :=
  match r with
  | .version => { p with version := v.setWidth 6 }
  | .level => { p with level := v.setWidth 2 }
  | .rsK => { p with rsK := v.setWidth 8 }
  | .ilvB1 => { p with ilvB1 := v.setWidth 8 }
  | .ilvD1 => { p with ilvD1 := v.setWidth 8 }
  | .ilvB2 => { p with ilvB2 := v.setWidth 8 }
  | .rsN => { p with rsN := v.setWidth 13 }
  | .rsSrc => { p with rsSrc := v.setWidth 12 }
  | .rsDst => { p with rsDst := v.setWidth 12 }
  | .rsStride => { p with rsStride := v.setWidth 12 }
  | .gfA => { p with gfA := v.setWidth 8 }
  | .gfB => { p with gfB := v.setWidth 8 }
  | .remBits => { p with remBits := v.setWidth 3 }
  | .alignCnt => { p with alignCnt := v.setWidth 3 }
  | .alignPos i => { p with alignPos := p.alignPos.set i.val (v.setWidth 8) i.isLt }
  | _ => p

/-- A host write to a register that accepts one. A reserved offset ignores it (R44). -/
def State.writeReg (s : State) (r : Reg) (v : Word) : State :=
  match r with
  | .ctrl => s.writeCtrl v
  | .status => { s with status := s.status.writeOneToClear v }
  | .cmd => s.accept v
  | r => { s with params := s.params.write r v }

/-- A register that is RO to the host, so that a write to it is refused (R21, R76, R77). STATUS is none: its RO fields ignore
writes (R24). -/
def Reg.readOnly : Reg → Bool
  | .id | .gfR | .mxVer | .maskSel | .fmtBits | .verBits | .cwTotal | .dataTotal | .dataModules | .rsSyndz => true
  | .penA | .penB | .penC | .penD | .darkCnt | .penMask | .gpolyK => true
  | .penalty _ => true
  | .gpoly _ => true
  | .ctrl | .status | .cmd | .version | .level | .rsK | .ilvB1 | .ilvD1 | .ilvB2 | .rsN | .rsSrc | .rsDst | .rsStride => false
  | .gfA | .gfB | .remBits | .alignCnt | .reserved => false
  | .alignPos _ => false

/-! ### Checks -/

/-- The window offset of an access. -/
def Access.offset : Access → Offset
  | .read8 off => off
  | .read32 off => off
  | .write8 off _ => off
  | .write32 off _ => off

/-- A write access. -/
def Access.isWrite : Access → Bool
  | .read8 _ => false
  | .read32 _ => false
  | .write8 _ _ => true
  | .write32 _ _ => true

/-- A 1-byte access. -/
def Access.isByte : Access → Bool
  | .read8 _ => true
  | .read32 _ => false
  | .write8 _ _ => true
  | .write32 _ _ => false

/-- A 4-byte access at an offset that is no multiple of 4 (R75). -/
def Access.misaligned (a : Access) : Bool := !a.isByte && a.offset.toNat % 4 ≠ 0

/-- The access is refused by R76: its address, width or alignment, or a write to a location that is read-only. A 1-byte access to a
reserved offset is among them (DEDUCED, log entry 6). -/
def Access.addrRefused (a : Access) : Bool :=
  match placeOf a.offset with
  | .unmapped => true
  | .reg r => a.isByte || a.misaligned || (a.isWrite && r.readOnly)
  | .dbuf _ => a.misaligned
  | .cbuf _ => a.misaligned
  | .mx _ => a.misaligned || a.isWrite

/-- The access is performed while BUSY = 1: a read of ID, or an access to CTRL or STATUS (R80), no access to a reserved offset (DEDUCED,
log entry 7), and in INIT as while a command runs (DEDUCED, log entry 13). -/
def Access.allowedBusy (a : Access) : Bool :=
  match placeOf a.offset with
  | .reg .id => true
  | .reg .ctrl => true
  | .reg .status => true
  | _ => false

/-! ### The access -/

/-- The byte a read of MX location `j` returns; locations from 177·177 on hold no state and read 0 (spec/10_state.md R49). -/
def Memory.readMx (m : Memory) (j : Nat) : Byte := if j < Config.mxCells then m.readByte j else 0#8

/-- The byte at a place of the three memories. -/
def State.readPlace8 (s : State) : Place → Byte
  | .dbuf a => s.dbuf.readByte a
  | .cbuf a => s.cbuf.readByte a
  | .mx j => s.mx.readMx j
  | .reg _ => 0#8
  | .unmapped => 0#8

/-- The 32 bits at a place; memories are little-endian (R73). -/
def State.readPlace32 (s : State) : Place → Word
  | .reg r => s.readReg r
  | .dbuf a => s.dbuf.readWord a
  | .cbuf a => s.cbuf.readWord a
  | .mx j => s.mx.readMx (j + 3) ++ s.mx.readMx (j + 2) ++ s.mx.readMx (j + 1) ++ s.mx.readMx j
  | .unmapped => 0#32

/-- Store a byte; only the two buffers take one (R74, R77). -/
def State.writePlace8 (s : State) (p : Place) (v : Byte) : State :=
  match p with
  | .dbuf a => { s with dbuf := s.dbuf.writeByte a v }
  | .cbuf a => { s with cbuf := s.cbuf.writeByte a v }
  | .reg _ => s
  | .unmapped => s
  | .mx _ => s

/-- Store 32 bits (R73). -/
def State.writePlace32 (s : State) (p : Place) (v : Word) : State :=
  match p with
  | .reg r => s.writeReg r v
  | .dbuf a => { s with dbuf := s.dbuf.writeWord a v }
  | .cbuf a => { s with cbuf := s.cbuf.writeWord a v }
  | .unmapped => s
  | .mx _ => s

/-- An access that is not refused, with its response (R70). A 1-byte read returns the byte with 0 above. -/
def State.perform (s : State) : Access → State
  | .read8 off => { s with reply := some (.data ((s.readPlace8 (placeOf off)).setWidth 32)) }
  | .read32 off => { s with reply := some (.data (s.readPlace32 (placeOf off))) }
  | .write8 off v => { s.writePlace8 (placeOf off) v with reply := some .written }
  | .write32 off v => { s.writePlace32 (placeOf off) v with reply := some .written }

/-- The response to a refused access: a read returns 0, a write completes (R70, R72, R80). -/
def Access.refusedReply (a : Access) : Reply := if a.isWrite then .written else .data 0#32

/-- One host access, its checks in the order of R81: R76, then R80, then the access. -/
def State.hostAccess (s : State) (a : Access) : State :=
  if a.addrRefused then { s.setAddrErr with reply := some a.refusedReply }
  else if s.busy && !a.allowedBusy then { s.setBusyErr with reply := some a.refusedReply }
  else s.perform a

end Sys2Proof.Machine
end

