-- ==== Sys2Proof/Machine/Sequencer.lean ====
section
/-! DEFINITION. The sequencer: execution of the accepted command word, and the end of the reset initialisation. -/

namespace Sys2Proof.Machine

/-- Execute the accepted word `w` to its completion (spec/20_memory.md R85): a legal word has its command's outcome, every other word
faults ILLEGAL_CMD before any other check (spec/60_exceptions.md R274). -/
def State.executeWord (s : State) (w : Word) : Host.Outcome State Fault Refusal :=
  match decode w with
  | .ok i => exec i s
  | .error _ => .next (s.raiseFault .illegalCmd)

/-- The sequencer's turn: it ends the reset initialisation, which sets neither DONE nor FAULT (spec/70_reset_and_hazards.md R301), or
completes the accepted command; in IDLE it does nothing. -/
def State.sequencerTurn (s : State) : Host.Outcome State Fault Refusal :=
  match s.seq with
  | .init => .next { s with seq := .idle }
  | .idle => .next s
  | .exec w => s.executeWord w

end Sys2Proof.Machine
end

