-- ==== Sys2Proof/Machine/Step.lean ====
section
/-! DEFINITION. One step of the machine, and how an instruction word comes to be the next one executed. -/

namespace Sys2Proof.Machine

/-- One step: the next input of the outside world is taken (log entry 1); when none is left, the sequencer has its turn (log entry 2). -/
def step (s : State) : Host.Outcome State Fault Refusal :=
  match s.events with
  | [] => s.sequencerTurn
  | .sequencer :: es => { s with events := es }.sequencerTurn
  | .host a :: es => .next ({ s with events := es }.hostAccess a)
  | .hardReset :: es => .next { s with events := es }.startReset

/-- The state in which the command word `w` has just been accepted (spec/20_memory.md R84) and the sequencer moves next, so that the
very next step executes it (log entry 3). -/
def State.withFetchWord (s : State) (nbits w : Nat) : State :=
  { s.accept (BitVec.ofNat 32 (w % 2 ^ nbits)) with events := .sequencer :: s.events }

end Sys2Proof.Machine
end

