-- ==== Sys2Proof/Machine/Symbol.lean ====
section
/-! DEFINITION. The finished symbol as the host sees it (spec/10_state.md R52). -/

namespace Sys2Proof.Machine

/-- `MX[r][c]`. -/
def State.mxCell (s : State) (r c : Nat) : Byte := s.mx.readByte (mxIndex r c)

/-- `isDark(row, col)` = MX[row][col].DARK. -/
def State.isDark (s : State) (r c : Nat) : Bool := cellDark (s.mxCell r c)

/-- `MX[row][col].KIND`. -/
def State.moduleKind (s : State) (r c : Nat) : Kind := cellKind (s.mxCell r c)

/-- FUNC and FMT are function modules in the source's sense, DATA is data. -/
def State.isFunctionModule (s : State) (r c : Nat) : Bool := s.moduleKind r c = .func || s.moduleKind r c = .fmt

/-- `version`. -/
def State.symbolVersion (s : State) : Nat := s.symbol.mxVer.toNat

/-- `level`: the LEVEL value whose bits FMT_BITS encodes (R231, R232: the two bits above the mask id, less the mask constant). -/
def State.symbolLevel (s : State) : BitVec 2 :=
  match ((s.symbol.fmtBits ^^^ 0x5412#15).extractLsb' 13 2).toNat with
  | 1 => 0#2
  | 0 => 1#2
  | 3 => 2#2
  | _ => 3#2

end Sys2Proof.Machine
end

