-- ==== Sys2Proof/Safety.lean ====
section
/-! DEFINITION. What holds of every state the block can reach: the canonical memories, the STATUS rules, the generator registers and
the matrix. Each is a property of one state that every step keeps. -/

namespace Sys2Proof.Safety

open Sys2Proof.Machine

/-- The three memories have their canonical form. -/
def MemoriesCanonical (s : State) : Prop := s.dbuf.wf ∧ s.cbuf.wf ∧ s.mx.wf

/-- The two buffers list offsets below their sizes only (spec/10_state.md R47, R48). -/
def BuffersInRange (s : State) : Prop := s.dbuf.within Config.dbufSize ∧ s.cbuf.within Config.cbufSize

/-- STATUS is consistent: FCODE is 0 exactly without a fault and one of the nine codes with one (spec/10_state.md R24,
spec/60_exceptions.md R271); DONE is 0 while BUSY; FAULT is 0 during the reset initialisation (spec/70_reset_and_hazards.md R301); CMD
holds the word that executes (R25, spec/20_memory.md R84). -/
def StatusConsistent (s : State) : Prop :=
  (s.status.fault = false → s.status.fcode = 0#8) ∧
  (s.status.fault = true → 1 ≤ s.status.fcode.toNat ∧ s.status.fcode.toNat ≤ 9) ∧
  (s.seq ≠ .idle → s.status.done = false) ∧
  (s.seq = .init → s.status.fault = false) ∧
  (∀ w, s.seq = .exec w → s.cmd = w)

/-- GPV, GPOLY_K and GPOLY0..31 agree (spec/10_state.md R41, R45). -/
def GeneratorConsistent (s : State) : Prop :=
  (s.status.gpv = false → s.gen = GenRegs.reset) ∧
  (s.status.gpv = true →
    1 ≤ s.gen.gpolyK.toNat ∧ s.gen.gpolyK.toNat ≤ Config.kMax ∧
    ∀ i : Fin 32, s.gen.gpoly[i] =
      if i.val ≤ s.gen.gpolyK.toNat then (genPoly s.gen.gpolyK.toNat).getD i.val 0#8 else 0#8)

/-- The rule of spec/10_state.md R51 for the cell `b` at (r, c) of a built matrix of width `w` with mask field `sel` and format word
`fmt`: no EMPTY cell (spec/44_mask.md R220), the FMT cells are exactly the format positions, RAW and DARK as R51 says. -/
def CellConsistent (w : Nat) (sel : MaskField) (fmt : BitVec 15) (r c : Nat) (b : Byte) : Prop :=
  b.toNat < 16 ∧
  (cellKind b = .fmt ↔ formatIndex w r c ≠ none) ∧
  cellKind b ≠ .empty ∧
  (cellKind b = .func → cellRaw b = false) ∧
  (cellKind b = .data → cellDark b = (cellRaw b ^^ (sel.valid && maskBit sel.mask r c))) ∧
  (cellKind b = .fmt →
    cellRaw b = false ∧ cellDark b = (sel.valid && fmt.getLsbD ((formatIndex w r c).getD 0)))

/-- The matrix and the registers that describe it agree (spec/10_state.md R34 to R37, R42, R43, R51): without a matrix all of them are
as after reset; with one, MX_VER is a legal version, every cell obeys R51, and no cell outside the symbol is listed. -/
def MatrixConsistent (s : State) : Prop :=
  (s.status.built = false →
    s.mx = [] ∧ s.symbol.mxVer = 0#6 ∧ s.symbol.maskSel = MaskField.reset ∧ s.symbol.fmtBits = 0#15 ∧ s.symbol.verBits = 0#18 ∧
    s.pen = PenaltyRegs.reset) ∧
  (s.status.built = true →
    Config.vMin ≤ s.symbol.mxVer.toNat ∧ s.symbol.mxVer.toNat ≤ Config.vMax ∧
    s.symbol.verBits = verBitsOf s.symbol.mxVer.toNat ∧
    (s.symbol.maskSel.valid = false → s.symbol.maskSel.mask = 0#3 ∧ s.symbol.fmtBits = 0#15) ∧
    (s.symbol.maskSel.valid = true → ∃ n < 4, s.symbol.fmtBits = fmtWord (BitVec.ofNat 2 n) s.symbol.maskSel.mask) ∧
    (∀ x ∈ s.mx, x.1 / Config.mxDim < s.mxWidth ∧ x.1 % Config.mxDim < s.mxWidth) ∧
    ∀ r < s.mxWidth, ∀ c < s.mxWidth,
      CellConsistent s.mxWidth s.symbol.maskSel s.symbol.fmtBits r c (s.mxCell r c))

/-- All of them: what a reachable state satisfies. -/
def Reachable (s : State) : Prop :=
  MemoriesCanonical s ∧ BuffersInRange s ∧ StatusConsistent s ∧ GeneratorConsistent s ∧ MatrixConsistent s

end Sys2Proof.Safety
end

