-- ==== Sys2Proof/Certificates/Slice0/Terms.lean ====
section
/-! DEFINITION. Terms the statements use: what the rules of spec/ say, in the rules' own form and without the machine's own functions
where the rule has one of its own. -/

namespace Sys2Proof.Terms

open Sys2Proof.Machine

/-! ### Ends of a command, spec/20_memory.md R85 and spec/60_exceptions.md R283 -/

/-- DONE <- 1, SEQ <- IDLE. -/
def finished (s : State) : State := { s with status := { s.status with done := true }, seq := .idle }

/-- FAULT <- 1, FCODE <- `code` if FCODE was 0, SEQ <- IDLE. -/
def faulted (code : Byte) (s : State) : State :=
  { s with
    status := { s.status with fault := true, fcode := if s.status.fcode = 0#8 then code else s.status.fcode }
    seq := .idle }

/-- Every word with the low byte `op` executes as `i` if its upper 24 bits are 0, and faults ILLEGAL_CMD otherwise: the first check of
the pseudocode of every command without an argument. -/
def PlainWord (op : Nat) (i : Instr) : Prop :=
  ∀ (s : State) (w : Word), s.seq = .exec w → w.toNat % 256 = op →
    s.sequencerTurn = if w.toNat / 256 = 0 then exec i s else .next (faulted 0x01#8 s)

/-- Every word with the low byte `op` executes as `i m` if its bits 10..8 hold `m` and its bits 31..11 are 0, and faults ILLEGAL_CMD
otherwise: the first check of the pseudocode of the two mask commands. -/
def MaskWord (op : Nat) (i : Nat → Instr) : Prop :=
  ∀ (s : State) (w : Word), s.seq = .exec w → w.toNat % 256 = op →
    s.sequencerTurn = if w.toNat / 2048 = 0 then exec (i (w.toNat / 256)) s else .next (faulted 0x01#8 s)

/-! ### GF(256) and its polynomials, spec/40_gf_arith.md -/

/-- `a` times x^n for n = 0 .. 7, the shifted copies of the carry-less product that bit n of the other operand selects. -/
def carryless (a b : Nat) : Nat :=
  (List.range 8).foldl (fun acc n => if b.testBit n then acc ^^^ (a <<< n) else acc) 0

/-- A polynomial of degree below 15 modulo 0x11D: the bits 14 .. 8 are cleared from the top. -/
def reduce11D (x : Nat) : Nat :=
  [14, 13, 12, 11, 10, 9, 8].foldl (fun acc n => if acc.testBit n then acc ^^^ (0x11D <<< (n - 8)) else acc) x

/-- The ⊕ of a list. -/
def xorSum (l : List Byte) : Byte := l.foldl (· ^^^ ·) 0#8

/-- The coefficient of x^k, for coefficients listed from x^0 on. -/
def coeff (p : List Byte) (k : Nat) : Byte := p.getD k 0#8

/-- Coefficient k of the product: the ⊕ over i + j = k of a_i ⊗ b_j (R126). -/
def prodCoeff (p q : List Byte) (k : Nat) : Byte :=
  xorSum ((List.range (k + 1)).map fun i => gfMul (coeff p i) (coeff q (k - i)))

/-- The product of two polynomials (R126), coefficients from x^0 on. -/
def polyMul (p q : List Byte) : List Byte := (List.range (p.length + q.length - 1)).map (prodCoeff p q)

/-- `(x ⊕ α^0) · … · (x ⊕ α^(K−1))` (spec/41_reed_solomon.md R140). -/
def generatorProduct (k : Nat) : List Byte := (List.range k).foldl (fun g i => polyMul g [gfExp i, 0x01#8]) [0x01#8]

/-- A polynomial given highest power first (spec/00_scope.md R15), as coefficients from x^0 on. -/
def fromHighest (s : List Byte) : List Byte := s.reverse

/-- `S_i = C(α^i)` for a codeword c_0 .. c_(L−1), c_0 the highest power: the ⊕ over t of c_t ⊗ α^(i·(L−1−t))
(spec/41_reed_solomon.md R148). -/
def syndrome (c : List Byte) (i : Nat) : Byte :=
  xorSum ((List.range c.length).map fun t => gfMul (c.getD t 0#8) (gfExp (i * (c.length - 1 - t))))

/-! ### Parameters of the commands -/

/-- `K = 0 or K > 30`. -/
def kIllegal (p : Params) : Prop := p.rsK.toNat = 0 ∨ 30 < p.rsK.toNat

/-- DATA_TOTAL, spec/10_state.md R38. -/
def dataTotal (p : Params) : Nat := p.ilvB1.toNat * p.ilvD1.toNat + p.ilvB2.toNat * (p.ilvD1.toNat + 1)

/-- CW_TOTAL, spec/10_state.md R38. -/
def cwTotal (p : Params) : Nat := dataTotal p + (p.ilvB1.toNat + p.ilvB2.toNat) * p.rsK.toNat

/-- `layout_ok`, spec/42_interleave.md R161. -/
def layoutLegal (p : Params) : Prop := 1 ≤ p.ilvB1.toNat ∧ 1 ≤ p.ilvD1.toNat ∧ dataTotal p ≤ 4096 ∧ cwTotal p ≤ 4096

/-- `L_b`, spec/42_interleave.md R160. -/
def blockLength (p : Params) (b : Nat) : Nat := if b < p.ilvB1.toNat then p.ilvD1.toNat else p.ilvD1.toNat + 1

/-- `data_b`, spec/42_interleave.md R162. -/
def dataBlock (p : Params) (dbuf : Memory) (b : Nat) : List Byte :=
  (List.range (blockLength p b)).map fun j => dbuf.readByte (b * p.ilvD1.toNat + (b - p.ilvB1.toNat) + j)

/-- The used alignment coordinates, spec/43_matrix.md R186. -/
def alignment (p : Params) : List Nat := (p.alignPos.toList.take p.alignCnt.toNat).map BitVec.toNat

/-- The symbol width, spec/43_matrix.md R180. -/
def symbolWidth (v : Nat) : Nat := 21 + 4 * (v - 1)

/-- A legal version and a legal alignment list for it, spec/43_matrix.md R180 and R186. -/
def geometryLegal (v : Nat) (ps : List Nat) : Prop := 1 ≤ v ∧ v ≤ 40 ∧ ∀ x ∈ ps, 2 ≤ x ∧ x ≤ symbolWidth v - 3

/-- A function module, spec/43_matrix.md R182. -/
def function (dark : Bool) : Byte := if dark then 0x05#8 else 0x01#8

/-- The distance of two coordinates. -/
def dist (x y : Nat) : Nat := (Int.natAbs ((x : Int) - (y : Int)))

/-- The alignment centres in the order of spec/43_matrix.md R187. -/
def centres (ps : List Nat) : List (Nat × Nat) :=
  let m := ps.length
  (List.range m).flatMap fun a =>
    ((List.range m).filter fun b => !((a = 0 && b = 0) || (a = 0 && b + 1 = m) || (a + 1 = m && b = 0))).map fun b =>
      (ps.getD a 0, ps.getD b 0)

/-- The colour of a finder module whose finder has its top-left corner at (r0, c0), spec/43_matrix.md R183. -/
def finder (r0 c0 r c : Nat) : Byte := function (max (dist r (r0 + 3)) (dist c (c0 + 3)) ≠ 2)

/-- The cell (r, c) of the layout of version `v` with alignment list `ps`, said cell by cell: what the LAST of the steps (0) to (7) of
spec/43_matrix.md R181 that writes the cell writes there. -/
def layoutCell (v : Nat) (ps : List Nat) (r c : Nat) : Byte :=
  let w := symbolWidth v
  if r = w - 8 ∧ c = 8 then 0x05#8
  else if (c = 8 ∧ (r ≤ 5 ∨ r = 7 ∨ r = 8 ∨ w - 7 ≤ r)) ∨ (r = 8 ∧ (c ≤ 5 ∨ c = 7 ∨ w - 8 ≤ c)) then 0x03#8
  else if 7 ≤ v ∧ r < 6 ∧ w - 11 ≤ c ∧ c < w - 8 then function ((verWord v).getLsbD (3 * r + (c - (w - 11))))
  else if 7 ≤ v ∧ c < 6 ∧ w - 11 ≤ r ∧ r < w - 8 then function ((verWord v).getLsbD (3 * c + (r - (w - 11))))
  else
    match (centres ps).reverse.find? fun y => dist r y.1 ≤ 2 && dist c y.2 ≤ 2 with
    | some y => function (max (dist r y.1) (dist c y.2) ≠ 1)
    | none =>
      if r = 6 ∧ 8 ≤ c ∧ c ≤ w - 9 then function (c % 2 = 0)
      else if c = 6 ∧ 8 ≤ r ∧ r ≤ w - 9 then function (r % 2 = 0)
      else if (r = 7 ∧ (c ≤ 7 ∨ w - 8 ≤ c)) ∨ (c = 7 ∧ (r ≤ 7 ∨ w - 8 ≤ r)) ∨ (c = w - 8 ∧ r ≤ 7) ∨ (r = w - 8 ∧ c ≤ 7) then 0x01#8
      else if r < 7 ∧ c < 7 then finder 0 0 r c
      else if r < 7 ∧ w - 7 ≤ c then finder 0 (w - 7) r c
      else if w - 7 ≤ r ∧ c < 7 then finder (w - 7) 0 r c
      else 0x00#8

/-- F of spec/43_matrix.md R200: how many cells of the layout are EMPTY (0x00). -/
def freeCount (v : Nat) (ps : List Nat) : Nat :=
  ((List.range (symbolWidth v)).map fun r =>
    (List.range (symbolWidth v)).countP fun c => layoutCell v ps r c = 0#8).sum

/-- The free modules q_0, q_1, … in the order R204 visits them, spec/43_matrix.md R205. -/
def freeModuleOrder (v : Nat) (ps : List Nat) : List (Nat × Nat) :=
  (zigzag (symbolWidth v)).filter fun q => layoutCell v ps q.1 q.2 = 0#8

/-- `bit[t]`, spec/43_matrix.md R203. -/
def sequenceBit (cbuf : Memory) (n t : Nat) : Bool :=
  if t < 8 * n then (cbuf.readByte (t / 8)).getLsbD (7 - t % 8) else false

/-- Every check of MATRIX_BUILD and ENCODE_ALL passes. -/
def buildLegal (p : Params) : Prop :=
  ¬ kIllegal p ∧ layoutLegal p ∧ geometryLegal p.version.toNat (alignment p) ∧
    freeCount p.version.toNat (alignment p) = 8 * cwTotal p + p.remBits.toNat

/-- The first failing check of MATRIX_BUILD and ENCODE_ALL, in the order of spec/43_matrix.md R211 and spec/45_control.md R261, and the
state it leaves: BAD_K, BAD_LAYOUT, BAD_VERSION, BAD_ALIGN, and LAYOUT_MISMATCH with DATA_MODULES <- F. -/
def BuildFaults (i : Instr) : Prop :=
  ∀ s : State,
    let p := s.params
    let v := p.version.toNat
    (kIllegal p → exec i s = .next (faulted 0x02#8 s)) ∧
    (¬ kIllegal p → ¬ layoutLegal p → exec i s = .next (faulted 0x03#8 s)) ∧
    (¬ kIllegal p → layoutLegal p → (v < 1 ∨ 40 < v) → exec i s = .next (faulted 0x05#8 s)) ∧
    (¬ kIllegal p → layoutLegal p → 1 ≤ v → v ≤ 40 → (∃ x ∈ alignment p, x < 2 ∨ symbolWidth v - 3 < x) →
      exec i s = .next (faulted 0x06#8 s)) ∧
    (¬ kIllegal p → layoutLegal p → geometryLegal v (alignment p) →
      freeCount v (alignment p) ≠ 8 * cwTotal p + p.remBits.toNat →
      exec i s = .next (faulted 0x07#8
        { s with symbol := { s.symbol with dataModules := BitVec.ofNat 16 (freeCount v (alignment p)) } }))

/-- A successful command that leaves the generator polynomial of K, spec/41_reed_solomon.md R142. -/
def withGenerator (s : State) : State :=
  { s with
    gen :=
      { gpoly := Vector.ofFn fun i => if i.val ≤ s.params.rsK.toNat then coeff (genPoly s.params.rsK.toNat) i.val else 0#8
        gpolyK := s.params.rsK }
    status := { s.status with gpv := true } }

/-! ### The host port, spec/20_memory.md -/

/-- The offset lies in DBUF, CBUF or MX. -/
def inMemories (off : Nat) : Prop := (0x1000 ≤ off ∧ off < 0x3000) ∨ 0x8000 ≤ off

/-- The offset of a register whose access class is RO in the table of spec/10_state.md section 2. -/
def readOnlyOffset (off : Nat) : Prop :=
  off = 0x000 ∨ off = 0x040 ∨ (0x070 ≤ off ∧ off ≤ 0x0A8) ∨ (0x0C0 ≤ off ∧ off ≤ 0x0DC) ∨ (0x100 ≤ off ∧ off < 0x180)

/-- The conditions of R76, in its order: an unmapped offset; a 1-byte access to a register; a misaligned 4-byte access; a write to a
read-only register; a write to GPOLY or MX. -/
def refusedByR76 (a : Access) : Prop :=
  let off := a.offset.toNat
  (0x180 ≤ off ∧ off < 0x1000) ∨ (0x3000 ≤ off ∧ off < 0x8000) ∨ (a.isByte = true ∧ off < 0x180) ∨
    (a.isByte = false ∧ off % 4 ≠ 0) ∨ (a.isWrite = true ∧ readOnlyOffset off) ∨ (a.isWrite = true ∧ 0x8000 ≤ off)

/-- A read of ID, or an access to CTRL or STATUS (R80). -/
def performedWhileBusy (a : Access) : Prop :=
  (a.isWrite = false ∧ a.offset.toNat = 0x000) ∨ a.offset.toNat = 0x004 ∨ a.offset.toNat = 0x008

/-- The response to a refused access: 0 for a read, completion for a write. -/
def refusal (a : Access) : Option Reply := some (if a.isWrite then .written else .data 0#32)

/-- The parameter registers (RW in the table of spec/10_state.md section 2): offset and width of the field. -/
def parameterFields : List (Nat × Nat) :=
  [(0x010, 6), (0x014, 2), (0x018, 8), (0x01C, 8), (0x020, 8), (0x024, 8), (0x028, 13), (0x02C, 12), (0x030, 12), (0x034, 12)] ++
    [(0x038, 8), (0x03C, 8), (0x044, 3), (0x048, 3)] ++
    [(0x04C, 8), (0x050, 8), (0x054, 8), (0x058, 8), (0x05C, 8), (0x060, 8), (0x064, 8)]

/-- What a read of a register returns, as a number: the offset and the value, field by field as spec/10_state.md R22, R25 to R37 and R39
to R45 lay it out. CTRL, STATUS and the two live totals have statements of their own. -/
def registerValues (s : State) : List (Nat × Nat) :=
  [(0x000, 0x51524501), (0x00C, s.cmd.toNat), (0x010, s.params.version.toNat), (0x014, s.params.level.toNat),
    (0x018, s.params.rsK.toNat), (0x01C, s.params.ilvB1.toNat), (0x020, s.params.ilvD1.toNat), (0x024, s.params.ilvB2.toNat)] ++
  [(0x028, s.params.rsN.toNat), (0x02C, s.params.rsSrc.toNat), (0x030, s.params.rsDst.toNat), (0x034, s.params.rsStride.toNat),
    (0x038, s.params.gfA.toNat), (0x03C, s.params.gfB.toNat), (0x040, s.gfR.toNat), (0x044, s.params.remBits.toNat),
    (0x048, s.params.alignCnt.toNat)] ++
  ((List.finRange 7).map fun i => (0x04C + 4 * i.val, s.params.alignPos[i].toNat)) ++
  [(0x070, s.symbol.mxVer.toNat), (0x074, s.symbol.maskSel.mask.toNat + 256 * s.symbol.maskSel.valid.toNat),
    (0x078, s.symbol.fmtBits.toNat), (0x07C, s.symbol.verBits.toNat), (0x088, s.symbol.dataModules.toNat),
    (0x08C, s.rsSyndz.toNat)] ++
  [(0x090, s.pen.penA.toNat), (0x094, s.pen.penB.toNat), (0x098, s.pen.penC.toNat), (0x09C, s.pen.penD.toNat),
    (0x0A0, s.pen.darkCnt.toNat), (0x0A4, s.pen.penMask.mask.toNat + 256 * s.pen.penMask.valid.toNat),
    (0x0A8, s.gen.gpolyK.toNat)] ++
  ((List.finRange 8).map fun m => (0x0C0 + 4 * m.val, s.pen.penalty[m].toNat)) ++
  ((List.finRange 32).map fun i => (0x100 + 4 * i.val, s.gen.gpoly[i].toNat))

/-- The reserved register offsets of spec/10_state.md R44. -/
def reservedOffsets : List Nat :=
  [0x068, 0x06C, 0x0AC, 0x0B0, 0x0B4, 0x0B8, 0x0BC, 0x0E0, 0x0E4, 0x0E8, 0x0EC, 0x0F0, 0x0F4, 0x0F8, 0x0FC]

/-! ### The mask commands -/

/-- P_m of spec/44_mask.md R228. -/
def penaltyOf (s : State) (m : Nat) : Nat := (s.score (BitVec.ofNat 3 m)).total

/-- The breakdown of mask `m`, spec/44_mask.md R240. -/
def breakdown (p : PenaltyRegs) (s : State) (m : Nat) : PenaltyRegs :=
  let x := s.score (BitVec.ofNat 3 m)
  { p with
    penA := BitVec.ofNat 32 x.a
    penB := BitVec.ofNat 32 x.b
    penC := BitVec.ofNat 32 x.c
    penD := BitVec.ofNat 32 x.d
    darkCnt := BitVec.ofNat 16 x.dark
    penMask := { mask := BitVec.ofNat 3 m, valid := true } }

/-- The modules of a line outside the symbol are light (spec/44_mask.md R226). -/
def moduleAt (l : List Bool) (i : Int) : Bool := if i < 0 then false else l.getD i.toNat false

/-- `core and (left or right)` at start `x`, spec/44_mask.md R226. -/
def finderAt (l : List Bool) (x : Nat) : Bool :=
  let at' (n : Int) : Bool := moduleAt l (x + n)
  (at' 0 && !at' 1 && at' 2 && at' 3 && at' 4 && !at' 5 && at' 6) &&
    ((!at' (-4) && !at' (-3) && !at' (-2) && !at' (-1)) || (!at' 7 && !at' 8 && !at' 9 && !at' 10))

/-- A plane of `w` rows of `w` modules. -/
def squarePlane (w : Nat) (p : Plane) : Prop := p.length = w ∧ ∀ row ∈ p, row.length = w

/-- The module at (r, c) of a plane. -/
def planeAt (p : Plane) (r c : Nat) : Bool := (p.getD r []).getD c false

/-- Row `r` of a plane of width `w`. -/
def planeRow (w : Nat) (p : Plane) (r : Nat) : List Bool := (List.range w).map fun c => planeAt p r c

/-- Column `c` of a plane of width `w`. -/
def planeColumn (w : Nat) (p : Plane) (c : Nat) : List Bool := (List.range w).map fun r => planeAt p r c

/-- What the `2·w` lines of a plane score under `f`, summed. -/
def overLines (w : Nat) (p : Plane) (f : List Bool → Nat) : Nat :=
  ((List.range w).map fun r => f (planeRow w p r)).sum + ((List.range w).map fun c => f (planeColumn w p c)).sum

/-- The modules x .. x + n − 1 of a line are a maximal run: one colour, and no module of that colour next to them
(spec/44_mask.md R224). -/
def isRun (l : List Bool) (x n : Nat) : Bool :=
  0 < n && x + n ≤ l.length && ((List.range n).all fun i => l.getD (x + i) false = l.getD x false) &&
    (x = 0 || l.getD (x - 1) false ≠ l.getD x false) && (x + n = l.length || l.getD (x + n) false ≠ l.getD x false)

/-- Rule (a) on one line, over all starts and lengths: `3 + (L − 5)` for a maximal run of length L ≥ 5. -/
def runPenalty (l : List Bool) : Nat :=
  ((List.range l.length).map fun x =>
    ((List.range (l.length + 1)).map fun n => if 5 ≤ n && isRun l x n then 3 + (n - 5) else 0).sum).sum

/-- (r, c) is a position of bit k in FmtPos(w), the table of spec/43_matrix.md R191. -/
def formatPosition (w k r c : Nat) : Prop :=
  (k ≤ 5 ∧ r = k ∧ c = 8) ∨ (k = 6 ∧ r = 7 ∧ c = 8) ∨ (k = 7 ∧ r = 8 ∧ c = 8) ∨ (k = 8 ∧ r = 8 ∧ c = 7) ∨
    (9 ≤ k ∧ k ≤ 14 ∧ r = 8 ∧ c = 14 - k) ∨ (k ≤ 7 ∧ r = 8 ∧ c = w - 1 - k) ∨ (8 ≤ k ∧ k ≤ 14 ∧ r = w - 15 + k ∧ c = 8)

/-- `cond_m(r, c)`, the table of spec/44_mask.md R221. -/
def maskCondition (m r c : Nat) : Prop :=
  [(r + c) % 2 = 0, r % 2 = 0, c % 3 = 0, (r + c) % 3 = 0, (r / 2 + c / 3) % 2 = 0, r * c % 2 + r * c % 3 = 0,
    (r * c % 2 + r * c % 3) % 2 = 0, ((r + c) % 2 + r * c % 3) % 2 = 0].getD m False

/-- `plane` is `col_m` of spec/44_mask.md R223 for the matrix in MX at the current LEVEL. -/
def isCandidate (s : State) (m : Nat) (plane : Nat → Nat → Bool) : Prop :=
  ∀ r < s.mxWidth, ∀ c < s.mxWidth,
    (s.moduleKind r c = .data →
      (plane r c = true ↔ (cellRaw (s.mxCell r c) = true ∧ ¬ maskCondition m r c) ∨
        (cellRaw (s.mxCell r c) = false ∧ maskCondition m r c))) ∧
    (s.moduleKind r c = .func → plane r c = s.isDark r c) ∧
    (s.moduleKind r c = .fmt → ∀ k, formatPosition s.mxWidth k r c →
      plane r c = (fmtWord s.params.level (BitVec.ofNat 3 m)).getLsbD k)

/-- A polynomial over GF(2) of degree at most `top`, modulo the polynomial `g` of degree `deg`. -/
def binaryRem (g deg top x : Nat) : Nat :=
  (List.range (top + 1 - deg)).foldl (fun acc i => if acc.testBit (top - i) then acc ^^^ (g <<< (top - i - deg)) else acc) x

/-! ### The causes of the fault codes, spec/60_exceptions.md R271 -/

/-- MATRIX_BUILD or ENCODE_ALL. -/
def builds (i : Instr) : Prop := i = .matrixBuild ∨ i = .encodeAll

/-- The commands that use a block layout. -/
def usesLayout (i : Instr) : Prop := i = .interleave ∨ builds i

/-- The single-block commands. -/
def singleBlock (i : Instr) : Prop := i = .rsBlock ∨ i = .rsSynd

/-- A mask command. -/
def isMaskCommand (i : Instr) : Prop := (∃ m, i = .maskScore m) ∨ (∃ m, i = .maskCommit m) ∨ i = .maskAuto

/-- The source or destination bytes of a single-block command leave DBUF or CBUF. -/
def rangeIllegal (i : Instr) (p : Params) : Prop :=
  let len := if i = .rsSynd then p.rsN.toNat + p.rsK.toNat else p.rsN.toNat
  4096 < p.rsSrc.toNat + len ∨ 4095 < p.rsDst.toNat + (p.rsK.toNat - 1) * p.rsStride.toNat

/-- A used alignment coordinate is below 2 or above W − 3. -/
def alignIllegal (p : Params) : Prop := ∃ x ∈ alignment p, x < 2 ∨ symbolWidth p.version.toNat - 3 < x

/-- The check with fault code `n` fails for a legal command, by the table of R271; BAD_ALIGN with a legal V only, LAYOUT_MISMATCH after
every earlier check has passed only (R281). -/
def checkFails (i : Instr) (s : State) (n : Nat) : Prop :=
  let p := s.params
  let v := p.version.toNat
  (n = 2 ∧ (i = .genPoly ∨ singleBlock i ∨ usesLayout i) ∧ kIllegal p) ∨
  (n = 3 ∧ usesLayout i ∧ ¬ layoutLegal p) ∨
  (n = 4 ∧ singleBlock i ∧ rangeIllegal i p) ∨
  (n = 5 ∧ builds i ∧ (v < 1 ∨ 40 < v)) ∨
  (n = 6 ∧ builds i ∧ 1 ≤ v ∧ v ≤ 40 ∧ alignIllegal p) ∨
  (n = 7 ∧ builds i ∧ ¬ kIllegal p ∧ layoutLegal p ∧ geometryLegal v (alignment p) ∧
    freeCount v (alignment p) ≠ 8 * cwTotal p + p.remBits.toNat) ∨
  (n = 8 ∧ isMaskCommand i ∧ s.status.built = false) ∨
  (n = 9 ∧ i = .gfLog ∧ p.gfA = 0#8)

end Sys2Proof.Terms
end

