-- ==== Sys2Proof/Certificates/Slice0/Obligations.lean ====
section
/-! DEFINITION. The statements for the provers. Each docstring names the rules of spec/ it formalises. -/

open Sys2Proof Sys2Proof.Machine Sys2Proof.Safety Sys2Proof.Terms

/-! ### Encoding, spec/30_encoding.md -/

/-- R100 to R102, R106: the decoder and the encoder are inverse to each other, on every well-formed command and on every legal word. -/
def Obligations.DecodeEncodeInverse : Prop :=
  (∀ i : Instr, i.wellFormed = true → decode (encode i) = .ok i) ∧
  (∀ (w : Word) (i : Instr), decode w = .ok i → i.wellFormed = true ∧ encode i = w)

/-- R104 with the count of R105: which words are legal; every other word faults ILLEGAL_CMD and changes nothing but STATUS (and SEQ,
which every completion changes). -/
def Obligations.LegalWords : Prop :=
  (∀ w : Word, (∃ i, decode w = .ok i) ↔
    w.toNat / 65536 = 0 ∧
      ((w.toNat % 256 ∈ [0x00, 0x10, 0x11, 0x12, 0x20, 0x21, 0x22, 0x30, 0x40, 0x52, 0x60] ∧ w.toNat / 256 % 256 = 0) ∨
        (w.toNat % 256 ∈ [0x50, 0x51] ∧ w.toNat / 256 % 256 < 8))) ∧
  (∃ plain masks : List Word, plain.length = 11 ∧ masks.length = 16 ∧ (plain ++ masks).Nodup ∧
    (∀ w ∈ plain, ∃ i, decode w = .ok i ∧ ¬ ((∃ m, i = .maskScore m) ∨ ∃ m, i = .maskCommit m)) ∧
    (∀ w ∈ masks, ∃ m < 8, decode w = .ok (.maskScore m) ∨ decode w = .ok (.maskCommit m)) ∧
    ∀ w : Word, (∃ i, decode w = .ok i) ↔ w ∈ plain ++ masks) ∧
  (∀ (s : State) (w : Word), s.seq = .exec w → (∀ i, decode w ≠ .ok i) → s.sequencerTurn = .next (faulted 0x01#8 s))

/-- The words of the table of R106, as the rule writes them. -/
def Obligations.TableWordsDecode : Prop :=
  decode 0x00000000#32 = .ok .nop ∧ decode 0x00000010#32 = .ok .gfMul ∧ decode 0x00000011#32 = .ok .gfExp ∧
  decode 0x00000012#32 = .ok .gfLog ∧ decode 0x00000020#32 = .ok .genPoly ∧ decode 0x00000021#32 = .ok .rsBlock ∧
  decode 0x00000022#32 = .ok .rsSynd ∧ decode 0x00000030#32 = .ok .interleave ∧ decode 0x00000040#32 = .ok .matrixBuild ∧
  (∀ m < 8, decode (BitVec.ofNat 32 (0x50 + m * 0x100)) = .ok (.maskScore m)) ∧
  (∀ m < 8, decode (BitVec.ofNat 32 (0x51 + m * 0x100)) = .ok (.maskCommit m)) ∧
  decode 0x00000052#32 = .ok .maskAuto ∧ decode 0x00000060#32 = .ok .encodeAll

/-- spec/60_exceptions.md R274: an illegal word written to CMD by the host is accepted, and at completion faults ILLEGAL_CMD; its only
effects are CMD, DONE = 0, FAULT = 1 and FCODE = 0x01 if FCODE was 0. -/
def Obligations.IllegalCommandWord : Prop :=
  ∀ (s : State) (w : Word), s.seq = .idle → (∀ i, decode w ≠ .ok i) →
    let t := s.hostAccess (.write32 0x00C#16 w)
    t.seq = .exec w ∧
    t.sequencerTurn = .next
      { s with
        cmd := w
        status :=
          { s.status with
            done := false
            fault := true
            fcode := if s.status.fcode = 0#8 then 0x01#8 else s.status.fcode }
        reply := some .written }

/-! ### The step -/

/-- The step runs the accepted command: when the accepted word decodes to `i` and the sequencer moves next, the step is `exec i` (R85),
with the input it took removed. How inputs reach the step is the model's choice, not a rule of the spec: the list of inputs is log
entry 1, the sequencer's move when it is empty log entry 2, a hardware reset as one instantaneous event log entries 9 and 14, the word
placed by withFetchWord log entry 3 (all DESIGN CHOICE). -/
def Obligations.StepRunsAcceptedCommand : Prop :=
  (∀ (s : State) (w : Word) (i : Instr), s.seq = .exec w → decode w = .ok i →
    (s.events = [] → step s = exec i s) ∧
    (∀ es, s.events = .sequencer :: es → step s = exec i { s with events := es })) ∧
  (∀ (s : State) (a : Access) (es : List Event), s.events = .host a :: es →
    step s = .next ({ s with events := es }.hostAccess a)) ∧
  (∀ (s : State) (es : List Event), s.events = .hardReset :: es →
    step s = .next { State.reset with events := es, reply := s.reply }) ∧
  (∀ (s : State) (w : Word) (i : Instr), decode w = .ok i → step (s.withFetchWord 32 w.toNat) = exec i (s.accept w))

/-- R312, with R70 and R311: every step answers a next state; an accepted command completes, with DONE or FAULT set; and when the inputs
of the outside world are used up the machine is idle after one further step. That the inputs are a list (log entry 1) and that the
sequencer moves when none is left (log entry 2) is the model's choice, DESIGN CHOICE. -/
def Obligations.AcceptedCommandCompletes : Prop :=
  (∀ s : State, ∃ t, step s = .next t) ∧
  (∀ (s : State) (w : Word), s.seq = .exec w →
    ∃ t, s.sequencerTurn = .next t ∧ t.seq = .idle ∧ (t.status.done = true ∨ t.status.fault = true)) ∧
  (∀ s : State, ∃ t : State, Host.Core.run core (s.events.length + 1) s = .next t ∧ t.events = [] ∧ t.seq = .idle)

/-! ### GF(256), spec/40_gf_arith.md -/

/-- R121 and R122: EXP by its recurrence with indices reduced modulo 255, and LOG as its inverse on the non-zero bytes. -/
def Obligations.ExpLogTables : Prop :=
  gfExp 0 = 0x01#8 ∧
  (∀ i < 254, (gfExp (i + 1)).toNat =
    ((2 * (gfExp i).toNat) ^^^ (if 128 ≤ (gfExp i).toNat then 0x11D else 0x000)) % 256) ∧
  (∀ i, gfExp i = gfExp (i % 255)) ∧
  (∀ a : Byte, a ≠ 0#8 → gfLog a < 255 ∧ gfExp (gfLog a) = a ∧ ∀ i < 255, gfExp i = a → i = gfLog a)

/-- R125: the laws of ⊗, and its value as the carry-less product reduced modulo 0x11D. -/
def Obligations.GfMulFieldLaws : Prop :=
  (∀ a b : Byte, gfMul a b = gfMul b a) ∧
  (∀ a b c : Byte, gfMul (gfMul a b) c = gfMul a (gfMul b c)) ∧
  (∀ a : Byte, gfMul 0x01#8 a = a ∧ gfMul a 0x01#8 = a) ∧
  (∀ a : Byte, gfMul 0x00#8 a = 0x00#8 ∧ gfMul a 0x00#8 = 0x00#8) ∧
  (∀ a b c : Byte, gfMul a (b ^^^ c) = gfMul a b ^^^ gfMul a c) ∧
  (∀ a : Byte, a ≠ 0#8 → gfMul a (gfExp ((255 - gfLog a) % 255)) = 0x01#8) ∧
  (∀ a b : Byte, (gfMul a b).toNat = reduce11D (carryless a.toNat b.toNat))

/-- R130 with R124: GF_MUL completes in every state, and changes GF_R only. -/
def Obligations.GfMulCommand : Prop :=
  PlainWord 0x10 .gfMul ∧
  (∀ s : State, exec .gfMul s = .next (finished
    { s with
      gfR :=
        if s.params.gfA = 0#8 ∨ s.params.gfB = 0#8 then 0#8
        else gfExp ((gfLog s.params.gfA + gfLog s.params.gfB) % 255) })) ∧
  gfExp ((gfLog 0x02#8 + gfLog 0x80#8) % 255) = 0x1D#8 ∧
  ∀ a : Byte, a ≠ 0#8 → gfExp ((gfLog 0x01#8 + gfLog a) % 255) = a ∧ gfExp ((gfLog a + gfLog 0x01#8) % 255) = a

/-- R131: GF_EXP completes in every state, and changes GF_R only. -/
def Obligations.GfExpCommand : Prop :=
  PlainWord 0x11 .gfExp ∧
  (∀ s : State, exec .gfExp s = .next (finished { s with gfR := gfExp (s.params.gfA.toNat % 255) })) ∧
  gfExp (255 % 255) = 0x01#8 ∧ gfExp (8 % 255) = 0x1D#8 ∧ ∀ i, gfExp i ≠ 0#8

/-- R132: GF_LOG completes for a non-zero operand, changing GF_R only, and faults GF_LOG_ZERO for 0. -/
def Obligations.GfLogCommand : Prop :=
  PlainWord 0x12 .gfLog ∧
  (∀ s : State, s.params.gfA = 0#8 → exec .gfLog s = .next (faulted 0x09#8 s)) ∧
  (∀ s : State, s.params.gfA ≠ 0#8 →
    exec .gfLog s = .next (finished { s with gfR := BitVec.ofNat 8 (gfLog s.params.gfA) }) ∧ gfLog s.params.gfA < 255) ∧
  gfLog 0x01#8 = 0 ∧ gfLog 0x8E#8 = 254

/-! ### Reed-Solomon, spec/41_reed_solomon.md -/

/-- R140: the generator polynomial is the product of the K linear factors, monic of degree K. Stated for every K. -/
def Obligations.GeneratorPolynomial : Prop :=
  ∀ k : Nat, genPoly k = generatorProduct k ∧ (genPoly k).length = k + 1 ∧ coeff (genPoly k) k = 0x01#8

/-- R143: the ECC codewords are the remainder of D(x)·x^K by g_K(x): there is a quotient, and the remainder has K bytes. -/
def Obligations.EccIsRemainder : Prop :=
  ∀ (d : List Byte) (k : Nat), 1 ≤ k →
    (ecc d k).length = k ∧
    ∃ q : List Byte, q.length = d.length ∧ ∀ n,
      coeff (fromHighest (d ++ List.replicate k 0#8)) n =
        prodCoeff q (generatorProduct k) n ^^^ coeff (fromHighest (ecc d k)) n

/-- R145: the codeword is a multiple of g_K(x), and all its K syndromes are 0. -/
def Obligations.CodewordSyndromesVanish : Prop :=
  ∀ (d : List Byte) (k : Nat), 1 ≤ k →
    (∃ q : List Byte, ∀ n, coeff (fromHighest (d ++ ecc d k)) n = prodCoeff q (generatorProduct k) n) ∧
    ∀ i < k, syndrome (d ++ ecc d k) i = 0#8

/-- R146: no data and all-zero data give all-zero ECC, and K = 0 faults BAD_K in every command that uses K. -/
def Obligations.EccCornerCases : Prop :=
  (∀ k, ecc [] k = List.replicate k 0#8) ∧
  (∀ n k, ecc (List.replicate n 0#8) k = List.replicate k 0#8) ∧
  (∀ (s : State), ∀ i ∈ [Instr.genPoly, .rsBlock, .rsSynd, .interleave, .matrixBuild, .encodeAll], s.params.rsK = 0#8 →
    exec i s = .next (faulted 0x02#8 s))

/-- R150 with R142: GEN_POLY completes for every legal K, and changes GPOLY, GPOLY_K and GPV only. -/
def Obligations.GenPolyCommand : Prop :=
  PlainWord 0x20 .genPoly ∧
  (∀ s : State, kIllegal s.params → exec .genPoly s = .next (faulted 0x02#8 s)) ∧
  (∀ s : State, ¬ kIllegal s.params →
    exec .genPoly s = .next (finished (withGenerator s)) ∧ (withGenerator s).gen.gpoly[31] = 0#8) ∧
  generatorProduct 1 = [0x01#8, 0x01#8] ∧ generatorProduct 2 = [0x02#8, 0x03#8, 0x01#8] ∧
  ∀ k, genPoly k = generatorProduct k

/-- R151: RS_BLOCK completes for a legal K and ranges inside the buffers; it changes the K destination bytes of CBUF and the generator
registers only; a later write to the same byte wins (STRIDE = 0). -/
def Obligations.RsBlockCommand : Prop :=
  PlainWord 0x21 .rsBlock ∧
  ∀ s : State,
    let p := s.params
    let k := p.rsK.toNat
    let inRange := p.rsSrc.toNat + p.rsN.toNat ≤ 4096 ∧ p.rsDst.toNat + (k - 1) * p.rsStride.toNat ≤ 4095
    (kIllegal p → exec .rsBlock s = .next (faulted 0x02#8 s)) ∧
    (¬ kIllegal p → ¬ inRange → exec .rsBlock s = .next (faulted 0x04#8 s)) ∧
    (¬ kIllegal p → inRange →
      let d := (List.range p.rsN.toNat).map fun i => s.dbuf.readByte (p.rsSrc.toNat + i)
      let place := fun j : Nat => p.rsDst.toNat + j * p.rsStride.toNat
      ∃ cbuf : Memory,
        exec .rsBlock s = .next (finished (withGenerator { s with cbuf := cbuf })) ∧
        (∀ a, (∀ j < k, a ≠ place j) → cbuf.readByte a = s.cbuf.readByte a) ∧
        (MemoriesCanonical s → ∀ j < k, (∀ j', j < j' → j' < k → place j' ≠ place j) →
          cbuf.readByte (place j) = (ecc d k).getD j 0#8))

/-- R152 with R148: RS_SYND completes for a legal K and ranges inside the buffers; it changes the K destination bytes of CBUF and
RS_SYNDZ only. -/
def Obligations.RsSyndCommand : Prop :=
  PlainWord 0x22 .rsSynd ∧
  ∀ s : State,
    let p := s.params
    let k := p.rsK.toNat
    let len := p.rsN.toNat + k
    let inRange := p.rsSrc.toNat + len ≤ 4096 ∧ p.rsDst.toNat + (k - 1) * p.rsStride.toNat ≤ 4095
    (kIllegal p → exec .rsSynd s = .next (faulted 0x02#8 s)) ∧
    (¬ kIllegal p → ¬ inRange → exec .rsSynd s = .next (faulted 0x04#8 s)) ∧
    (¬ kIllegal p → inRange →
      let c := (List.range len).map fun i => s.dbuf.readByte (p.rsSrc.toNat + i)
      let place := fun j : Nat => p.rsDst.toNat + j * p.rsStride.toNat
      ∃ (cbuf : Memory) (z : Bool),
        exec .rsSynd s = .next (finished { s with cbuf := cbuf, rsSyndz := z }) ∧
        (z = true ↔ ∀ i < k, syndrome c i = 0#8) ∧
        (∀ a, (∀ j < k, a ≠ place j) → cbuf.readByte a = s.cbuf.readByte a) ∧
        (MemoriesCanonical s → ∀ j < k, (∀ j', j < j' → j' < k → place j' ≠ place j) →
          cbuf.readByte (place j) = syndrome c j))

/-! ### Interleaving, spec/42_interleave.md -/

/-- R170 with R160 to R165: INTERLEAVE completes for a legal K and layout; every data and ECC codeword lands at its interleaved place, and
nothing else changes but the generator registers. -/
def Obligations.InterleaveCommand : Prop :=
  PlainWord 0x30 .interleave ∧
  ∀ s : State,
    let p := s.params
    let k := p.rsK.toNat
    let b1 := p.ilvB1.toNat
    let d1 := p.ilvD1.toNat
    let nb := b1 + p.ilvB2.toNat
    (kIllegal p → exec .interleave s = .next (faulted 0x02#8 s)) ∧
    (¬ kIllegal p → ¬ layoutLegal p → exec .interleave s = .next (faulted 0x03#8 s)) ∧
    (¬ kIllegal p → layoutLegal p →
      ∃ cbuf : Memory,
        exec .interleave s = .next (finished (withGenerator { s with cbuf := cbuf })) ∧
        (∀ a, cwTotal p ≤ a → cbuf.readByte a = s.cbuf.readByte a) ∧
        (MemoriesCanonical s →
          (∀ b < nb, ∀ j < blockLength p b,
            cbuf.readByte (if j < d1 then j * nb + b else d1 * nb + (b - b1)) =
              s.dbuf.readByte (b * d1 + (b - b1) + j)) ∧
          (∀ b < nb, ∀ j < k,
            cbuf.readByte (dataTotal p + j * nb + b) = (ecc (dataBlock p s.dbuf b) k).getD j 0#8)))

/-- R166: what INTERLEAVE leaves in CBUF[0 .. CW_TOTAL−1] is a permutation of all blocks' data and ECC codewords; the bytes above are not
written. -/
def Obligations.InterleavedIsPermutation : Prop :=
  ∀ s : State, MemoriesCanonical s → ¬ kIllegal s.params → layoutLegal s.params →
    ∃ t, exec .interleave s = .next t ∧
      ((List.range (cwTotal s.params)).map fun a => t.cbuf.readByte a).Perm
        ((List.range (s.params.ilvB1.toNat + s.params.ilvB2.toNat)).flatMap fun b =>
          dataBlock s.params s.dbuf b ++ ecc (dataBlock s.params s.dbuf b) s.params.rsK.toNat) ∧
      ∀ a, cwTotal s.params ≤ a → t.cbuf.readByte a = s.cbuf.readByte a

/-! ### The matrix, spec/43_matrix.md -/

/-- R181 to R192: the layout, cell by cell, for every legal version and every legal alignment list (the standard's or not). -/
def Obligations.LayoutCellByCell : Prop :=
  ∀ (v : Nat) (ps : List Nat), geometryLegal v ps →
    ∀ r < symbolWidth v, ∀ c < symbolWidth v, (layout v ps).cell r c = layoutCell v ps r c

/-- R189 and R232: the version word is the version number followed by a remainder that makes it a multiple of the BCH generator 0x1F25;
the format word less the mask constant 0x5412 is the level bits (R231) and the mask id, followed by a remainder that makes it a multiple
of 0x537. With the examples of R232. -/
def Obligations.InformationWords : Prop :=
  (∀ v, 7 ≤ v → v ≤ 40 → (verWord v).toNat / 4096 = v ∧ binaryRem 0x1F25 12 17 (verWord v).toNat = 0) ∧
  (∀ lvl < 4, ∀ m < 8,
    let x := (fmtWord (BitVec.ofNat 2 lvl) (BitVec.ofNat 3 m) ^^^ 0x5412#15).toNat
    x / 1024 = 8 * [1, 0, 3, 2].getD lvl 0 + m ∧ binaryRem 0x537 10 14 x = 0) ∧
  fmtWord 1#2 0#3 = 0x5412#15 ∧ fmtWord 0#2 0#3 = 0x77C4#15 ∧ fmtWord 2#2 6#3 = 0x2EDA#15 ∧ fmtWord 0#2 7#3 = 0x6976#15

/-- R204: the order of the cells visited. Strip s of W rows visits two cells a row, the right column first, upward for even s; its right
column is W−1−2s, or one less from column 6 on. -/
def Obligations.ZigzagOrder : Prop :=
  ∀ v, 1 ≤ v →
    let w := symbolWidth v
    (zigzag w).length = w * (w - 1) ∧
    ∀ s < (w - 1) / 2, ∀ n < w,
      let right := if 6 < w - 1 - 2 * s then w - 1 - 2 * s else w - 2 - 2 * s
      let r := if s % 2 = 0 then w - 1 - n else n
      (zigzag w)[2 * (s * w + n)]? = some (r, right) ∧ (zigzag w)[2 * (s * w + n) + 1]? = some (r, right - 1)

/-- R206: every cell outside column 6 is visited exactly once, column 6 holds function modules only, and after a successful build no cell
of the symbol is EMPTY and exactly 8·N + REM are DATA. -/
def Obligations.BuiltMatrixComplete : Prop :=
  (∀ v, 1 ≤ v → (zigzag (symbolWidth v)).Nodup ∧
    ∀ r c, (r, c) ∈ zigzag (symbolWidth v) ↔ r < symbolWidth v ∧ c < symbolWidth v ∧ c ≠ 6) ∧
  (∀ v ps, geometryLegal v ps → ∀ r < symbolWidth v, cellKind (layoutCell v ps r 6) = .func) ∧
  (∀ s : State, buildLegal s.params →
    ∃ t, exec .matrixBuild s = .next t ∧
      (∀ r < symbolWidth s.params.version.toNat, ∀ c < symbolWidth s.params.version.toNat, t.moduleKind r c ≠ .empty) ∧
      ((List.range (symbolWidth s.params.version.toNat)).map fun r =>
        (List.range (symbolWidth s.params.version.toNat)).countP fun c => t.moduleKind r c = .data).sum =
        8 * cwTotal s.params + s.params.remBits.toNat)

/-- R211 with R180, R186, R190, R200, R201, R203, R205, R209, R210: MATRIX_BUILD completes when its checks pass; it replaces MX and
writes the registers of R210 and DATA_MODULES only. -/
def Obligations.MatrixBuildCommand : Prop :=
  PlainWord 0x40 .matrixBuild ∧ BuildFaults .matrixBuild ∧
  ∀ s : State, buildLegal s.params →
    let p := s.params
    let v := p.version.toNat
    let w := symbolWidth v
    let ps := alignment p
    ∃ mx : Memory,
      exec .matrixBuild s = .next (finished
        { s with
          mx := mx
          symbol :=
            { mxVer := p.version
              maskSel := { mask := 0#3, valid := false }
              fmtBits := 0#15
              verBits := if 7 ≤ v then verWord v else 0#18
              dataModules := BitVec.ofNat 16 (freeCount v ps) }
          pen :=
            { penA := 0, penB := 0, penC := 0, penD := 0, darkCnt := 0, penMask := { mask := 0#3, valid := false }
              penalty := Vector.replicate 8 0#32 }
          status := { s.status with built := true } }) ∧
      (freeModuleOrder v ps).length = freeCount v ps ∧
      (∀ t < freeCount v ps,
        let q := (freeModuleOrder v ps).getD t (0, 0)
        mx.readByte (177 * q.1 + q.2) = if sequenceBit s.cbuf (cwTotal p) t then 0x0E#8 else 0x02#8) ∧
      (∀ r < w, ∀ c < w, layoutCell v ps r c ≠ 0#8 → mx.readByte (177 * r + c) = layoutCell v ps r c) ∧
      (∀ a, ¬ (a / 177 < w ∧ a % 177 < w) → mx.readByte a = 0#8)

/-! ### Masks and penalties, spec/44_mask.md -/

/-- R221 and R222: the eight mask conditions. -/
def Obligations.MaskConditions : Prop :=
  ∀ m < 8, ∀ r c, maskBit (BitVec.ofNat 3 m) r c = true ↔ maskCondition m r c

/-- R223: the score of a mask is the score of the candidate colour plane of that mask at the current LEVEL, a W by W plane. -/
def Obligations.CandidateScore : Prop :=
  ∀ (s : State) (m : Nat), m < 8 →
    ∃ plane : Plane, squarePlane s.mxWidth plane ∧ isCandidate s m (planeAt plane) ∧
      s.score (BitVec.ofNat 3 m) = scorePlane s.mxWidth plane

/-- R224: PEN_A is the sum over the 2·W lines of 3 + (L − 5) for every maximal run of length L ≥ 5. -/
def Obligations.PenaltyRunsRule : Prop :=
  ∀ (w : Nat) (p : Plane), squarePlane w p → (scorePlane w p).a = overLines w p runPenalty

/-- R225: PEN_B is 3 for every uniform 2 × 2 window, windows overlapping; a uniform 3 × 3 plane scores 12. -/
def Obligations.PenaltyBlocksRule : Prop :=
  (∀ (w : Nat) (p : Plane), squarePlane w p →
    (scorePlane w p).b =
      ((List.range (w - 1)).map fun r => ((List.range (w - 1)).map fun c =>
        if planeAt p r c = planeAt p r (c + 1) ∧ planeAt p r c = planeAt p (r + 1) c ∧
            planeAt p r c = planeAt p (r + 1) (c + 1) then 3 else 0).sum).sum) ∧
  ∀ x : Bool, (scorePlane 3 [[x, x, x], [x, x, x], [x, x, x]]).b = 12

/-- R226: PEN_C is 40 for every line and every start x ≤ W − 7 of a finder-like pattern with four light modules on one side, modules
outside the symbol being light. -/
def Obligations.PenaltyFinderRule : Prop :=
  ∀ (w : Nat) (p : Plane), 7 ≤ w → squarePlane w p →
    (scorePlane w p).c =
      overLines w p fun l => ((List.range (w - 7 + 1)).map fun x => if finderAt l x then 40 else 0).sum

/-- R227: PEN_D from the dark-module count, in both of the rule's forms and with its examples. -/
def Obligations.PenaltyBalanceRule : Prop :=
  (∀ (w : Nat) (p : Plane), squarePlane w p →
    (scorePlane w p).dark =
      ((List.range w).map fun r => (List.range w).countP fun c => planeAt p r c).sum ∧
    (scorePlane w p).d = penaltyD w (scorePlane w p).dark) ∧
  (∀ w d : Nat, 0 < w →
    ((penaltyD w d : Nat) : Int) = 10 * ⌊|20 * (d : Rat) - 10 * (w : Rat) ^ 2| / (w : Rat) ^ 2⌋ ∧
    ((penaltyD w d : Nat) : Int) = 10 * ⌊|100 * (d : Rat) / (w : Rat) ^ 2 - 50| / 5⌋) ∧
  (∀ d, 199 ≤ d → d ≤ 242 → penaltyD 21 d = 0) ∧ (∀ d, 243 ≤ d → d ≤ 264 → penaltyD 21 d = 10) ∧
  penaltyD 21 265 = 20 ∧ penaltyD 21 0 = 100

/-- R228: the total is the sum of the four, and every term and the sum fit below 2^24 for W ≤ 177, rule (c) below 2,421,360. -/
def Obligations.PenaltyFits : Prop :=
  ∀ (w : Nat) (p : Plane), 7 ≤ w → w ≤ 177 → squarePlane w p →
    let x := scorePlane w p
    x.total = x.a + x.b + x.c + x.d ∧ x.c ≤ 2421360 ∧
      x.a < 2 ^ 24 ∧ x.b < 2 ^ 24 ∧ x.c < 2 ^ 24 ∧ x.d < 2 ^ 24 ∧ x.total < 2 ^ 24

/-- R229: the score depends only on the KIND, DARK and RAW bits inside W × W, on MX_VER, on LEVEL and on m. -/
def Obligations.ScoreDependsOnlyOn : Prop :=
  ∀ (s t : State), s.symbol.mxVer = t.symbol.mxVer → s.params.level = t.params.level →
    (∀ r < s.mxWidth, ∀ c < s.mxWidth, s.mxCell r c &&& 0x0F#8 = t.mxCell r c &&& 0x0F#8) →
    ∀ m < 8, s.score (BitVec.ofNat 3 m) = t.score (BitVec.ofNat 3 m)

/-- R240: MASK_SCORE completes on a built matrix for every mask id, and changes PENALTYm, the breakdown registers and PEN_MASK only; a
committed mask does not change a score. -/
def Obligations.MaskScoreCommand : Prop :=
  MaskWord 0x50 .maskScore ∧
  (∀ (s : State) (m : Nat), s.status.built = false → exec (.maskScore m) s = .next (faulted 0x08#8 s)) ∧
  (∀ (s : State) (m : Nat) (hm : m < 8), s.status.built = true →
    exec (.maskScore m) s = .next (finished
      { s with
        pen :=
          { breakdown s.pen s m with
            penalty :=
              s.pen.penalty.set m
                (BitVec.ofNat 32 ((s.score (BitVec.ofNat 3 m)).a + (s.score (BitVec.ofNat 3 m)).b +
                  (s.score (BitVec.ofNat 3 m)).c + (s.score (BitVec.ofNat 3 m)).d)) hm } })) ∧
  (∀ (s t : State) (m n : Nat), m < 8 → n < 8 → MemoriesCanonical s → MatrixConsistent s → s.status.built = true →
    exec (.maskCommit n) s = .next t → t.score (BitVec.ofNat 3 m) = s.score (BitVec.ofNat 3 m))

/-- R241 with R233 to R235: MASK_COMMIT completes on a built matrix for every mask id; it changes the DARK bits of the DATA and FMT cells,
MASK_SEL and FMT_BITS only. -/
def Obligations.MaskCommitCommand : Prop :=
  MaskWord 0x51 .maskCommit ∧
  (∀ (s : State) (m : Nat), s.status.built = false → exec (.maskCommit m) s = .next (faulted 0x08#8 s)) ∧
  (∀ (s : State) (m : Nat), m < 8 → s.status.built = true →
    let fw := fmtWord s.params.level (BitVec.ofNat 3 m)
    ∃ mx : Memory,
      exec (.maskCommit m) s = .next (finished
        { s with
          mx := mx
          symbol := { s.symbol with maskSel := { mask := BitVec.ofNat 3 m, valid := true }, fmtBits := fw } }) ∧
      (MemoriesCanonical s → MatrixConsistent s →
        (∀ r < s.mxWidth, ∀ c < s.mxWidth,
          let old := s.mxCell r c
          let new := mx.readByte (177 * r + c)
          (cellKind old = .data →
            ((cellRaw old = true ∧ ¬ maskCondition m r c) ∨ (cellRaw old = false ∧ maskCondition m r c) →
              new = old ||| 0x04#8) ∧
            ((cellRaw old = true ∧ maskCondition m r c) ∨ (cellRaw old = false ∧ ¬ maskCondition m r c) →
              new = old &&& 0xFB#8)) ∧
          (∀ k, formatPosition s.mxWidth k r c → new = if fw.getLsbD k then 0x07#8 else 0x03#8) ∧
          (cellKind old = .func → new = old)) ∧
        (∀ a, ¬ (a / 177 < s.mxWidth ∧ a % 177 < s.mxWidth) → mx.readByte a = s.mx.readByte a)))

/-- R235: after a commit every DATA cell has DARK = RAW ⊕ maskbit, and every cell of the symbol shows the candidate of the mask at the
LEVEL used. -/
def Obligations.CommittedMatrixShowsCandidate : Prop :=
  ∀ (s : State) (m : Nat), m < 8 → MemoriesCanonical s → MatrixConsistent s → s.status.built = true →
    ∃ t, exec (.maskCommit m) s = .next t ∧
      (∀ r < t.mxWidth, ∀ c < t.mxWidth, t.moduleKind r c = .data →
        t.isDark r c = (cellRaw (t.mxCell r c) ^^ maskBit (BitVec.ofNat 3 m) r c)) ∧
      isCandidate s m t.isDark

/-- R236: committing a mask to a matrix with a committed mask gives the same MX as committing it alone (and, MASK_SEL and FMT_BITS
included, the same state); committing a mask twice is committing it once. -/
def Obligations.RecommitIndependent : Prop :=
  ∀ (s : State) (m n : Nat), m < 8 → n < 8 → MemoriesCanonical s → MatrixConsistent s → s.status.built = true →
    ∃ t u, exec (.maskCommit m) s = .next t ∧ exec (.maskCommit n) t = .next u ∧ exec (.maskCommit n) s = .next u ∧
      (m = n → u = t)

/-- R242 with R230: MASK_AUTO completes on a built matrix; it records all eight totals and the breakdown of the least mask id with the
least total, and commits that mask. -/
def Obligations.MaskAutoCommand : Prop :=
  PlainWord 0x52 .maskAuto ∧
  (∀ s : State, s.status.built = false → exec .maskAuto s = .next (faulted 0x08#8 s)) ∧
  (∀ s : State, s.status.built = true →
    ∃ best < 8, (∀ m < 8, penaltyOf s best ≤ penaltyOf s m) ∧ (∀ m < best, penaltyOf s best < penaltyOf s m) ∧
      ∃ t,
        exec .maskAuto s = .next t ∧ t.status.done = true ∧
        exec (.maskCommit best)
          { s with
            pen :=
              { breakdown s.pen s best with
                penalty := Vector.ofFn fun i : Fin 8 => BitVec.ofNat 32 (penaltyOf s i.val) } } = .next t)

/-! ### Control, spec/45_control.md -/

/-- R260: NOP completes in every state and changes nothing but what every completion changes. -/
def Obligations.NopCommand : Prop :=
  PlainWord 0x00 .nop ∧ ∀ s : State, exec .nop s = .next (finished s)

/-- R261: ENCODE_ALL completes when the checks of MATRIX_BUILD pass, with the writes of INTERLEAVE, then MATRIX_BUILD, then MASK_AUTO. -/
def Obligations.EncodeAllCommand : Prop :=
  PlainWord 0x60 .encodeAll ∧ BuildFaults .encodeAll ∧
  ∀ s : State, buildLegal s.params →
    ∃ s₁ s₂ t, exec .interleave s = .next s₁ ∧ exec .matrixBuild s₁ = .next s₂ ∧ exec .maskAuto s₂ = .next t ∧
      exec .encodeAll s = .next t ∧ t.status.done = true ∧ t.status.gpv = true ∧ t.status.built = true ∧
      t.status.fault = s.status.fault ∧
      ∀ a, cwTotal s.params ≤ a → t.cbuf.readByte a = s.cbuf.readByte a

/-- R262: ENCODE_ALL against the three commands issued one after another: the same state but for CMD when none faults; the same code, and
nothing else written but DATA_MODULES, when INTERLEAVE or MATRIX_BUILD faults; MASK_AUTO cannot fault then. -/
def Obligations.EncodeAllEqualsSequence : Prop :=
  ∀ (s : State),
    (∀ s₁ s₂ s₃ : State,
      exec .interleave (s.accept 0x30#32) = .next s₁ → s₁.status.done = true →
      exec .matrixBuild (s₁.accept 0x40#32) = .next s₂ → s₂.status.done = true →
      exec .maskAuto (s₂.accept 0x52#32) = .next s₃ → s₃.status.done = true →
      exec .encodeAll (s.accept 0x60#32) = .next { s₃ with cmd := 0x60#32 }) ∧
    (∀ s₁ : State, s.status.fault = false → s.status.fcode = 0#8 →
      exec .interleave (s.accept 0x30#32) = .next s₁ → s₁.status.done = false →
      exec .encodeAll (s.accept 0x60#32) = .next (faulted s₁.status.fcode (s.accept 0x60#32))) ∧
    (∀ s₁ s₂ : State, s.status.fault = false → s.status.fcode = 0#8 →
      exec .interleave (s.accept 0x30#32) = .next s₁ → s₁.status.done = true →
      exec .matrixBuild (s₁.accept 0x40#32) = .next s₂ → s₂.status.done = false →
      exec .encodeAll (s.accept 0x60#32) = .next (faulted s₂.status.fcode
        { s.accept 0x60#32 with symbol := { s.symbol with dataModules := s₂.symbol.dataModules } })) ∧
    (∀ s₁ s₂ s₃ : State,
      exec .interleave (s.accept 0x30#32) = .next s₁ → s₁.status.done = true →
      exec .matrixBuild (s₁.accept 0x40#32) = .next s₂ → s₂.status.done = true →
      exec .maskAuto (s₂.accept 0x52#32) = .next s₃ → s₃.status.done = true)

/-! ### Faults and the whole machine, spec/60_exceptions.md -/

/-- R283: a faulting command writes exactly FAULT, FCODE if it was 0, and DATA_MODULES for LAYOUT_MISMATCH. DONE is 0 from acceptance, so
a completion that leaves it 0 is a fault. -/
def Obligations.FaultWritesExactly : Prop :=
  ∀ (s t : State) (w : Word), s.seq = .exec w → s.status.done = false → s.sequencerTurn = .next t → t.status.done = false →
    (∃ n, 1 ≤ n ∧ n ≤ 9 ∧ n ≠ 7 ∧ t = faulted (BitVec.ofNat 8 n) s) ∨
    ((decode w = .ok .matrixBuild ∨ decode w = .ok .encodeAll) ∧
      t = faulted 0x07#8
        { s with
          symbol :=
            { s.symbol with
              dataModules := BitVec.ofNat 16 (freeCount s.params.version.toNat (alignment s.params)) } })

/-- R281 with the causes of R271: a command faults exactly when a check fails, and reports the least code among the checks that fail. -/
def Obligations.FaultPriority : Prop :=
  ∀ (s t : State) (w : Word), s.seq = .exec w → s.status.fault = false → s.status.fcode = 0#8 →
    s.sequencerTurn = .next t →
    ((∀ i, decode w ≠ .ok i) → t.status.fault = true ∧ t.status.fcode = 0x01#8) ∧
    (∀ i, decode w = .ok i →
      (t.status.fault = true ↔ ∃ n, checkFails i s n) ∧
      (t.status.fault = true →
        checkFails i s t.status.fcode.toNat ∧ ∀ n < t.status.fcode.toNat, ¬ checkFails i s n))

/-- spec/10_state.md R60, R23, R47 and spec/60_exceptions.md R273: which state a command can change. No command writes DBUF, CTRL, CMD, a
parameter register or a sticky access flag. -/
def Obligations.CommandWriteSets : Prop :=
  ∀ (i : Instr) (s t : State), exec i s = .next t →
    t.dbuf = s.dbuf ∧ t.ctrl = s.ctrl ∧ t.params = s.params ∧ t.cmd = s.cmd ∧ t.events = s.events ∧ t.reply = s.reply ∧
    t.status.busyErr = s.status.busyErr ∧ t.status.addrErr = s.status.addrErr ∧ t.seq = .idle ∧
    (t.gfR ≠ s.gfR → i = .gfMul ∨ i = .gfExp ∨ i = .gfLog) ∧
    (t.rsSyndz ≠ s.rsSyndz → i = .rsSynd) ∧
    ((t.gen ≠ s.gen ∨ t.status.gpv ≠ s.status.gpv) → i = .genPoly ∨ i = .rsBlock ∨ i = .interleave ∨ i = .encodeAll) ∧
    (t.cbuf ≠ s.cbuf → i = .rsBlock ∨ i = .rsSynd ∨ i = .interleave ∨ i = .encodeAll) ∧
    ((t.status.built ≠ s.status.built ∨ t.symbol.mxVer ≠ s.symbol.mxVer ∨ t.symbol.verBits ≠ s.symbol.verBits ∨
      t.symbol.dataModules ≠ s.symbol.dataModules) → builds i) ∧
    ((t.mx ≠ s.mx ∨ t.symbol.maskSel ≠ s.symbol.maskSel ∨ t.symbol.fmtBits ≠ s.symbol.fmtBits) →
      builds i ∨ (∃ m, i = .maskCommit m) ∨ i = .maskAuto) ∧
    (t.pen ≠ s.pen → builds i ∨ (∃ m, i = .maskScore m) ∨ i = .maskAuto)

/-! ### The host port, spec/20_memory.md -/

/-- R76: an access R76 names sets ADDRERR, changes no other state and gets the refused response, busy or not; nothing else sets
ADDRERR. That a 1-byte access to a reserved offset is one of them is the model's reading of R74 and R76 against R44 (log entry 6,
DEDUCED); the response and the list of inputs are the model's own fields (log entries 4 and 1, DESIGN CHOICE). -/
def Obligations.AddrErrRule : Prop :=
  (∀ (s : State) (a : Access), refusedByR76 a →
    s.hostAccess a = { s with status := { s.status with addrErr := true }, reply := refusal a }) ∧
  (∀ s t : State, step s = .next t → s.status.addrErr = false → t.status.addrErr = true →
    ∃ a es, s.events = .host a :: es ∧ refusedByR76 a)

/-- R80 with R81: while BUSY, an access R76 does not refuse and R80 does not list sets BUSYERR, changes nothing else and gets the refused
response; the listed ones are performed; no access but a soft reset disturbs the running command or what it reads and writes; and BUSYERR
is set by nothing else. That an aligned access to a reserved offset sets BUSYERR is the model's reading of R80 against R44 (log entry 7,
DEDUCED), and that a CTRL write is performed in INIT its reading of R80 and R301 against R280 (log entry 13, DEDUCED); the response and
the list of inputs are the model's own fields (log entries 4 and 1, DESIGN CHOICE). -/
def Obligations.BusyRefusal : Prop :=
  (∀ (s : State) (a : Access), s.seq ≠ .idle → ¬ refusedByR76 a →
    (¬ performedWhileBusy a →
      s.hostAccess a = { s with status := { s.status with busyErr := true }, reply := refusal a }) ∧
    (performedWhileBusy a → s.hostAccess a = s.perform a)) ∧
  (∀ (s : State) (a : Access), s.seq ≠ .idle → (∀ v : Word, a = .write32 0x004#16 v → v.getLsbD 31 = false) →
    ∃ (c : Ctrl) (st : Status) (r : Option Reply),
      s.hostAccess a = { s with ctrl := c, status := st, reply := r } ∧
      st.built = s.status.built ∧ st.gpv = s.status.gpv ∧ (st.done = true → s.status.done = true)) ∧
  (∀ s t : State, step s = .next t → s.status.busyErr = false → t.status.busyErr = true →
    s.seq ≠ .idle ∧ ∃ a es, s.events = .host a :: es ∧ ¬ refusedByR76 a ∧ ¬ performedWhileBusy a)

/-- R84: a write to CMD that is not refused is accepted at once, whatever the word. -/
def Obligations.CommandAcceptance : Prop :=
  ∀ (s : State) (w : Word), s.seq = .idle →
    s.hostAccess (.write32 0x00C#16 w) =
      { s with cmd := w, status := { s.status with done := false }, seq := .exec w, reply := some .written } ∧
    (s.hostAccess (.write32 0x00C#16 w)).busy = true

/-- R73, with the address map of R71 for the memories of R47 to R49. First clause, in every idle state: a 1-byte read answers the byte of
the memory its offset lies in, DBUF, CBUF or MX, and 0 above the 177 · 177 cells of MX. Second clause: a 4-byte access is little-endian
against 1-byte accesses to the same offsets; a write of either width changes the memory its offset lies in, and no other byte and no
other state but the response. -/
def Obligations.LittleEndian : Prop :=
  (∀ s : State, s.seq = .idle →
    (∀ a < 4096, (s.hostAccess (.read8 (BitVec.ofNat 16 (0x1000 + a)))).reply = some (.data ((s.dbuf.readByte a).setWidth 32))) ∧
    (∀ a < 4096, (s.hostAccess (.read8 (BitVec.ofNat 16 (0x2000 + a)))).reply = some (.data ((s.cbuf.readByte a).setWidth 32))) ∧
    (∀ j < 32768, (s.hostAccess (.read8 (BitVec.ofNat 16 (0x8000 + j)))).reply =
      some (.data (if j < 31329 then (s.mx.readByte j).setWidth 32 else 0#32)))) ∧
  ∀ (s : State) (off : Nat), s.seq = .idle → MemoriesCanonical s → inMemories off → off < 0x10000 → off % 4 = 0 →
    let read := fun (u : State) (o : Nat) => (u.hostAccess (.read8 (BitVec.ofNat 16 o))).reply
    let word := fun (u : State) => (u.hostAccess (.read32 (BitVec.ofNat 16 off))).reply
    let onlyWrote := fun (t : State) =>
      (off < 0x2000 → t = { s with dbuf := t.dbuf, reply := some .written }) ∧
      (0x2000 ≤ off → t = { s with cbuf := t.cbuf, reply := some .written })
    (∃ b₀ b₁ b₂ b₃ : Byte,
      read s off = some (.data (b₀.setWidth 32)) ∧ read s (off + 1) = some (.data (b₁.setWidth 32)) ∧
      read s (off + 2) = some (.data (b₂.setWidth 32)) ∧ read s (off + 3) = some (.data (b₃.setWidth 32)) ∧
      word s = some (.data (b₀.setWidth 32 ||| b₁.setWidth 32 <<< 8 ||| b₂.setWidth 32 <<< 16 ||| b₃.setWidth 32 <<< 24))) ∧
    (off < 0x3000 → ∀ v : Word,
      let t := s.hostAccess (.write32 (BitVec.ofNat 16 off) v)
      word t = some (.data v) ∧ onlyWrote t ∧
      (∀ j < 4, read t (off + j) = some (.data ((v.extractLsb' (8 * j) 8).setWidth 32))) ∧
      (∀ o, inMemories o → o < 0x10000 → ¬ (off ≤ o ∧ o < off + 4) → read t o = read s o)) ∧
    (off < 0x3000 → ∀ j < 4, ∀ b : Byte,
      let t := s.hostAccess (.write8 (BitVec.ofNat 16 (off + j)) b)
      read t (off + j) = some (.data (b.setWidth 32)) ∧ onlyWrote t ∧
      (∀ o, inMemories o → o < 0x10000 → o ≠ off + j → read t o = read s o))

/-- R79, reads: a performed read changes nothing but the port's response, and a second read of the location gets the same response. -/
def Obligations.ReadsHaveNoSideEffect : Prop :=
  ∀ (s : State) (a : Access), a.isWrite = false → ¬ refusedByR76 a → (s.seq = .idle ∨ performedWhileBusy a) →
    s.hostAccess a = { s with reply := (s.hostAccess a).reply } ∧
    ((s.hostAccess a).hostAccess a).reply = (s.hostAccess a).reply

/-- The register file as the host sees it, spec/10_state.md section 2. Parameter registers (R21, R26 to R33): in an idle state a write
keeps the field's bits, is read back, and changes no other register. Every register but STATUS and the live totals, which have
statements of their own: what an idle read returns (R22, R25 to R37, R39 to R43, R45). CTRL (R23), in every SEQ state: what a read
returns, and a write with SRST = 0 (that it is performed in INIT is the model's reading of R80 and R301 against R280, log entry 13,
DEDUCED). Reserved offsets (R44), in an idle state: an aligned read returns 0, a write is ignored, and no flag is set. The response is the
model's own field (log entry 4, DESIGN CHOICE). -/
def Obligations.ParameterReadback : Prop :=
  (∀ (s : State) (v : Word), s.seq = .idle → ∀ f ∈ parameterFields,
    let t := s.hostAccess (.write32 (BitVec.ofNat 16 f.1) v)
    t = { s with params := t.params, reply := some .written } ∧
    (t.hostAccess (.read32 (BitVec.ofNat 16 f.1))).reply = some (.data (BitVec.ofNat 32 (v.toNat % 2 ^ f.2))) ∧
    ∀ g ∈ parameterFields, g.1 ≠ f.1 →
      (t.hostAccess (.read32 (BitVec.ofNat 16 g.1))).reply = (s.hostAccess (.read32 (BitVec.ofNat 16 g.1))).reply) ∧
  (∀ s : State, s.seq = .idle → ∀ x ∈ registerValues s, ∃ v : Word,
    s.hostAccess (.read32 (BitVec.ofNat 16 x.1)) = { s with reply := some (.data v) } ∧ v.toNat = x.2) ∧
  (∀ s : State,
    (∃ v : Word,
      s.hostAccess (.read32 0x004#16) = { s with reply := some (.data v) } ∧ v.toNat = s.ctrl.ie.toNat + 2 * s.ctrl.fie.toNat) ∧
    ∀ v : Word, v.getLsbD 31 = false →
      s.hostAccess (.write32 0x004#16 v) =
        { s with ctrl := { ie := v.getLsbD 0, fie := v.getLsbD 1 }, reply := some .written }) ∧
  (∀ s : State, s.seq = .idle → ∀ off ∈ reservedOffsets,
    s.hostAccess (.read32 (BitVec.ofNat 16 off)) = { s with reply := some (.data 0#32) } ∧
    ∀ v : Word, s.hostAccess (.write32 (BitVec.ofNat 16 off) v) = { s with reply := some .written })

/-- spec/10_state.md R38: CW_TOTAL and DATA_TOTAL are computed from the layout registers, exactly, with at most 18 bits. -/
def Obligations.LiveTotals : Prop :=
  (∀ s : State, s.seq = .idle →
    (∃ v : Word, (s.hostAccess (.read32 0x080#16)).reply = some (.data v) ∧ v.toNat = cwTotal s.params) ∧
    (∃ v : Word, (s.hostAccess (.read32 0x084#16)).reply = some (.data v) ∧ v.toNat = dataTotal s.params)) ∧
  (∀ p : Params, dataTotal p ≤ cwTotal p ∧ cwTotal p ≤ 260355 ∧ cwTotal p < 2 ^ 18) ∧
  (∃ p : Params, cwTotal p = 260355) ∧ cwTotal Params.reset = 0 ∧ dataTotal Params.reset = 0

/-- spec/10_state.md R24 with R54: the bits a read of STATUS returns, and what a write of STATUS does, in every SEQ state. -/
def Obligations.StatusReadAndClear : Prop :=
  ∀ (s : State) (v : Word),
    (∃ x : Word,
      (s.hostAccess (.read32 0x008#16)).reply = some (.data x) ∧
      x.toNat =
        (if s.seq = .idle then 0 else 1) + 2 * s.status.done.toNat + 4 * s.status.fault.toNat + 8 * s.status.busyErr.toNat +
          16 * s.status.addrErr.toNat + 256 * s.status.fcode.toNat + 65536 * s.status.built.toNat +
          131072 * s.status.gpv.toNat) ∧
    s.hostAccess (.write32 0x008#16 v) =
      { s with
        status :=
          { s.status with
            done := s.status.done && !v.getLsbD 1
            fault := s.status.fault && !v.getLsbD 2
            fcode := if v.getLsbD 2 then 0#8 else s.status.fcode
            busyErr := s.status.busyErr && !v.getLsbD 3
            addrErr := s.status.addrErr && !v.getLsbD 4 }
        reply := some .written }

/-! ### Reset and interrupt, spec/70_reset_and_hazards.md -/

/-- R302: a write of CTRL with SRST = 1 resets the block in any SEQ state and abandons a running command; the rest of the write is
discarded. That the memories are cleared in the same step, with SEQ in INIT, is the model's choice (log entry 9, DESIGN CHOICE; R301: a
model may treat the clearing as instantaneous); so are the inputs to come, which are kept, and the response (log entries 1 and 4, DESIGN
CHOICE). -/
def Obligations.SoftReset : Prop :=
  ∀ (s : State) (v : Word), v.getLsbD 31 = true →
    s.hostAccess (.write32 0x004#16 v) = { State.reset with events := s.events, reply := some .written } ∧
    (s.hostAccess (.write32 0x004#16 v)).seq = .init ∧
    (s.hostAccess (.write32 0x004#16 v)).sequencerTurn =
      .next { State.reset with events := s.events, reply := some .written, seq := .idle }

/-- R303 with R301: every register and every byte after reset, as the host reads them once the initialisation has ended; ID, CTRL and
STATUS during it; the interrupt output. That the first step from reset ends the initialisation is the model's choice, where R301 says
only after a finite, unspecified time: the sequencer moves when no input is left (log entry 2), and none is placed at reset (log
entry 3), both DESIGN CHOICE. -/
def Obligations.ResetValues : Prop :=
  State.reset.seq = .init ∧ State.reset.irq = false ∧ State.reset.cmd = 0#32 ∧
  (State.reset.hostAccess (.read32 0x000#16)).reply = some (.data 0x51524501#32) ∧
  (State.reset.hostAccess (.read32 0x004#16)).reply = some (.data 0#32) ∧
  (State.reset.hostAccess (.read32 0x008#16)).reply = some (.data 1#32) ∧
  step State.reset = .next { State.reset with seq := .idle } ∧
  (∀ off : Nat, off < 0x180 → off % 4 = 0 →
    ({ State.reset with seq := .idle }.hostAccess (.read32 (BitVec.ofNat 16 off))).reply =
      some (.data (if off = 0 then 0x51524501#32 else 0#32))) ∧
  (∀ off : Nat, inMemories off → off < 0x10000 →
    ({ State.reset with seq := .idle }.hostAccess (.read8 (BitVec.ofNat 16 off))).reply = some (.data 0#32))

/-- spec/60_exceptions.md R280 with R286: the interrupt output; it is 0 during the reset initialisation; it rises only when a command
completes or the host writes CTRL; clearing DONE and FAULT, or the two enables, deasserts it. That a CTRL write is performed in INIT is
log entry 13 (DEDUCED), and the list of inputs log entry 1 (DESIGN CHOICE): the model's choices. -/
def Obligations.InterruptOutput : Prop :=
  ∀ s : State,
    (s.irq = true ↔ (s.ctrl.ie = true ∧ s.status.done = true) ∨ (s.ctrl.fie = true ∧ s.status.fault = true)) ∧
    (StatusConsistent s → s.seq = .init → s.irq = false) ∧
    (∀ t, step s = .next t → s.irq = false → t.irq = true →
      (∃ w, s.seq = .exec w ∧ t.seq = .idle) ∨ ∃ v es, s.events = .host (.write32 0x004#16 v) :: es) ∧
    (s.hostAccess (.write32 0x008#16 0x00000006#32)).irq = false ∧
    (s.hostAccess (.write32 0x004#16 0x00000000#32)).irq = false

/-! ### Invariants -/

/-- The three memories keep their canonical form, and the two buffers keep their entries below 4096, at every step. -/
def Obligations.MemoriesStayCanonical : Prop :=
  ∀ s s' : State, MemoriesCanonical s ∧ BuffersInRange s → step s = .next s' → MemoriesCanonical s' ∧ BuffersInRange s'

/-- STATUS stays consistent at every step: FCODE is 0 exactly without a fault and one of the nine codes with one, DONE is 0 while BUSY,
FAULT is 0 during the reset initialisation, CMD holds the word that executes. -/
def Obligations.StatusStaysConsistent : Prop :=
  ∀ s s' : State, StatusConsistent s → step s = .next s' → StatusConsistent s'

/-- GPV, GPOLY_K and GPOLY stay consistent at every step. -/
def Obligations.GeneratorStaysConsistent : Prop :=
  ∀ s s' : State, GeneratorConsistent s → step s = .next s' → GeneratorConsistent s'

/-- spec/10_state.md R51 and the registers that describe the matrix: they hold of MX at every step. -/
def Obligations.MatrixStaysConsistent : Prop :=
  ∀ s s' : State, MemoriesCanonical s ∧ MatrixConsistent s → step s = .next s' → MemoriesCanonical s' ∧ MatrixConsistent s'

/-- The invariants hold after reset. -/
def Obligations.ResetMeetsInvariants : Prop := Reachable State.reset
end

