-- ==== Sys2Proof/Laws/Memory.lean ====
section
/-! SUPPORT. Laws of memories: a read after a write, and that every memory operation keeps the canonical form and the range. -/

namespace Sys2Proof.Machine

/-! ### One byte -/

@[simp] theorem Memory.readByte_nil (a : Nat) : Memory.readByte [] a = Memory.unlisted := rfl

@[simp] theorem Memory.readByte_cons (k : Nat) (b : Byte) (t : Memory) (a : Nat) :
    Memory.readByte ((k, b) :: t) a = if k = a then b else t.readByte a := rfl

/-- An offset below every listed one reads as unlisted. -/
theorem Memory.readByte_of_lt {m : Memory} {a : Nat} (h : ∀ x ∈ m, a < x.1) : m.readByte a = Memory.unlisted := by
  induction m with
  | nil => rfl
  | cons x t ih =>
    obtain ⟨k, b⟩ := x
    have hk : a < k := h (k, b) (by simp)
    rw [Memory.readByte_cons, if_neg (by omega), ih fun y hy => h y (by simp [hy])]

/-- A listed byte reads as itself in a canonical memory. -/
theorem Memory.readByte_of_mem {m : Memory} (hs : m.Pairwise fun x y => x.1 < y.1) {x : Host.Cell} (hx : x ∈ m) :
    m.readByte x.1 = x.2 := by
  induction m with
  | nil => simp at hx
  | cons y t ih =>
    obtain ⟨k, b⟩ := y
    rw [List.pairwise_cons] at hs
    rcases List.mem_cons.1 hx with rfl | hx
    · simp
    · have : k < x.1 := hs.1 x hx
      rw [Memory.readByte_cons, if_neg (by omega), ih hs.2 hx]

/-- What is read is unlisted or listed. -/
theorem Memory.readByte_eq_or_mem (m : Memory) (a : Nat) : m.readByte a = Memory.unlisted ∨ (a, m.readByte a) ∈ m := by
  induction m with
  | nil => simp
  | cons x t ih =>
    obtain ⟨k, b⟩ := x
    rw [Memory.readByte_cons]
    split
    · next h => subst h; simp
    · rcases ih with h | h <;> simp [h]

/-- Writing at another offset changes nothing. -/
theorem Memory.readByte_writeByte_ne (m : Memory) {a a' : Nat} (b : Byte) (h : a' ≠ a) :
    (m.writeByte a b).readByte a' = m.readByte a' := by
  induction m with
  | nil => unfold Memory.writeByte; split <;> simp [h.symm]
  | cons x t ih =>
    obtain ⟨k, v⟩ := x
    unfold Memory.writeByte
    split
    · split <;> simp [h.symm]
    · split
      · next h2 => subst h2; split <;> simp [h.symm]
      · simp [ih]

/-- What the entries of a memory after a write are. -/
theorem Memory.mem_writeByte {m : Memory} {a : Nat} {b : Byte} {x : Host.Cell} (hx : x ∈ m.writeByte a b) :
    x ∈ m ∨ (x = (a, b) ∧ b ≠ Memory.unlisted) := by
  induction m with
  | nil => unfold Memory.writeByte at hx; split at hx <;> simp_all
  | cons y t ih =>
    obtain ⟨k, v⟩ := y
    unfold Memory.writeByte at hx
    split at hx
    · split at hx
      · exact .inl hx
      · rcases List.mem_cons.1 hx with rfl | h
        · exact .inr ⟨rfl, ‹_›⟩
        · exact .inl h
    · split at hx
      · split at hx
        · exact .inl (List.mem_cons_of_mem _ hx)
        · rcases List.mem_cons.1 hx with rfl | h
          · exact .inr ⟨rfl, ‹_›⟩
          · exact .inl (List.mem_cons_of_mem _ h)
      · rcases List.mem_cons.1 hx with rfl | h
        · exact .inl (by simp)
        · rcases ih h with h | h
          · exact .inl (List.mem_cons_of_mem _ h)
          · exact .inr h

/-- The entries' order survives a write. -/
theorem Memory.sorted_writeByte {m : Memory} (hs : m.Pairwise fun x y => x.1 < y.1) (a : Nat) (b : Byte) :
    (m.writeByte a b).Pairwise fun x y => x.1 < y.1 := by
  induction m with
  | nil => unfold Memory.writeByte; split <;> simp
  | cons y t ih =>
    obtain ⟨k, v⟩ := y
    have hc := List.pairwise_cons.1 hs
    unfold Memory.writeByte
    split
    · next hak =>
      split
      · exact hs
      · refine List.pairwise_cons.2 ⟨fun x hx => ?_, hs⟩
        rcases List.mem_cons.1 hx with rfl | h
        · exact hak
        · exact Nat.lt_trans hak (hc.1 x h)
    · split
      · next h2 =>
        split
        · exact hc.2
        · exact List.pairwise_cons.2 ⟨fun x hx => h2 ▸ hc.1 x hx, hc.2⟩
      · refine List.pairwise_cons.2 ⟨fun x hx => ?_, ih hc.2⟩
        rcases Memory.mem_writeByte hx with h | ⟨rfl, -⟩
        · exact hc.1 x h
        · show k < a
          omega

/-- A read after a write to the same offset gives the value written, in a canonical memory. -/
theorem Memory.readByte_writeByte_same {m : Memory} (hs : m.Pairwise fun x y => x.1 < y.1) (a : Nat) (b : Byte) :
    (m.writeByte a b).readByte a = b := by
  induction m with
  | nil => unfold Memory.writeByte; split <;> simp_all
  | cons y t ih =>
    obtain ⟨k, v⟩ := y
    have hc := List.pairwise_cons.1 hs
    unfold Memory.writeByte
    split
    · next hak =>
      split
      · next hb =>
        rw [hb]
        refine Memory.readByte_of_lt fun x hx => ?_
        rcases List.mem_cons.1 hx with rfl | h
        · exact hak
        · exact Nat.lt_trans hak (hc.1 x h)
      · simp
    · split
      · next h2 =>
        subst h2
        split
        · next hb => rw [hb]; exact Memory.readByte_of_lt fun x hx => hc.1 x hx
        · simp
      · next h1 h2 => rw [Memory.readByte_cons, if_neg (by omega), ih hc.2]

/-- The one spec lemma of a write: every byte after it. -/
theorem Memory.readByte_writeByte {m : Memory} (hm : m.wf) (a : Nat) (b : Byte) (a' : Nat) :
    (m.writeByte a b).readByte a' = if a' = a then b else m.readByte a' := by
  split
  · next h => rw [h, Memory.readByte_writeByte_same hm.1]
  · next h => exact Memory.readByte_writeByte_ne m b h

/-! ### The canonical form -/

theorem Memory.wf_nil : Memory.wf [] := by simp [Memory.wf]

theorem Memory.wf_writeByte {m : Memory} (hm : m.wf) (a : Nat) (b : Byte) : (m.writeByte a b).wf := by
  refine ⟨Memory.sorted_writeByte hm.1 a b, fun x hx => ?_⟩
  rcases Memory.mem_writeByte hx with h | ⟨rfl, hb⟩
  · exact hm.2 x h
  · exact hb

theorem Memory.wf_writeWord {m : Memory} (hm : m.wf) (a : Nat) (v : Word) : (m.writeWord a v).wf :=
  Memory.wf_writeByte (Memory.wf_writeByte (Memory.wf_writeByte (Memory.wf_writeByte hm _ _) _ _) _ _) _ _

theorem Memory.wf_writeStrided {m : Memory} (hm : m.wf) (a stride : Nat) (bs : List Byte) :
    (m.writeStrided a stride bs).wf := by
  induction bs generalizing m a with
  | nil => exact hm
  | cons b bs ih => exact ih (Memory.wf_writeByte hm a b) (a + stride)

theorem Memory.wf_writeAll {m : Memory} (hm : m.wf) (ws : List (Nat × Byte)) : (m.writeAll ws).wf := by
  induction ws generalizing m with
  | nil => exact hm
  | cons w ws ih => exact ih (Memory.wf_writeByte hm w.1 w.2)

theorem Memory.mem_mapBytes {f : Nat → Byte → Byte} {m : Memory} {x : Host.Cell} (hx : x ∈ m.mapBytes f) :
    ∃ b, (x.1, b) ∈ m ∧ x.2 = f x.1 b ∧ x.2 ≠ Memory.unlisted := by
  unfold Memory.mapBytes at hx
  obtain ⟨⟨k, b⟩, hy, he⟩ := List.mem_filterMap.1 hx
  split at he
  · simp at he
  · next hne =>
    obtain rfl := Option.some.inj he
    exact ⟨b, hy, rfl, hne⟩

theorem Memory.wf_mapBytes {m : Memory} (hm : m.wf) (f : Nat → Byte → Byte) : (m.mapBytes f).wf := by
  refine ⟨?_, fun x hx => (Memory.mem_mapBytes hx).choose_spec.2.2⟩
  refine List.Pairwise.filterMap _ (fun x y hxy x' hx' y' hy' => ?_) hm.1
  simp only [Option.ite_none_left_eq_some, Option.some.injEq] at hx' hy'
  rw [← hx'.2, ← hy'.2]
  exact hxy

/-- The one spec lemma of `mapBytes`: every byte after it. -/
theorem Memory.readByte_mapBytes {m : Memory} (hm : m.wf) (f : Nat → Byte → Byte) (a : Nat)
    (h0 : f a Memory.unlisted = Memory.unlisted) : (m.mapBytes f).readByte a = f a (m.readByte a) := by
  have hw := Memory.wf_mapBytes hm f
  rcases Memory.readByte_eq_or_mem m a with h | h
  · rw [h, h0]
    rcases Memory.readByte_eq_or_mem (m.mapBytes f) a with h' | h'
    · exact h'
    · obtain ⟨b, hb, -, -⟩ := Memory.mem_mapBytes h'
      have := Memory.readByte_of_mem hm.1 hb
      exact absurd (this.symm.trans h) (hm.2 _ hb)
  · by_cases hz : f a (m.readByte a) = Memory.unlisted
    · rw [hz]
      rcases Memory.readByte_eq_or_mem (m.mapBytes f) a with h' | h'
      · exact h'
      · obtain ⟨b, hb, he, hne⟩ := Memory.mem_mapBytes h'
        have hb' := Memory.readByte_of_mem hm.1 hb
        simp only at hb' he hne
        rw [← hb'] at he
        exact absurd (he.trans hz) hne
    · have : (a, f a (m.readByte a)) ∈ m.mapBytes f :=
        List.mem_filterMap.2 ⟨(a, m.readByte a), h, by simp [hz]⟩
      exact Memory.readByte_of_mem hw.1 this

/-! ### Ranges -/

theorem Memory.within_writeByte {n : Nat} {m : Memory} (hm : m.within n) {a : Nat} (ha : a < n) (b : Byte) :
    (m.writeByte a b).within n := by
  intro x hx
  rcases Memory.mem_writeByte hx with h | ⟨rfl, -⟩
  · exact hm x h
  · exact ha

theorem Memory.within_writeStrided {n : Nat} {m : Memory} (hm : m.within n) (a stride : Nat) (bs : List Byte)
    (h : ∀ j < bs.length, a + j * stride < n) : (m.writeStrided a stride bs).within n := by
  induction bs generalizing m a with
  | nil => exact hm
  | cons b bs ih =>
    refine ih (Memory.within_writeByte hm (by simpa using h 0 (by simp)) b) (a + stride) fun j hj => ?_
    have := h (j + 1) (by simpa using hj)
    rw [Nat.add_mul, Nat.one_mul] at this
    omega

theorem Memory.within_mapBytes {n : Nat} {m : Memory} (hm : m.within n) (f : Nat → Byte → Byte) :
    (m.mapBytes f).within n := fun x hx => by
  obtain ⟨b, hb, -, -⟩ := Memory.mem_mapBytes hx
  exact hm (x.1, b) hb

/-! ### Equal reads, equal memories -/

/-- Canonical memories that read the same are the same list. -/
theorem Memory.eq_of_readByte {m m' : Memory} (hm : m.wf) (hm' : m'.wf) (h : ∀ a, m.readByte a = m'.readByte a) : m = m' := by
  have key : ∀ {p q : Memory}, p.wf → q.wf → (∀ a, p.readByte a = q.readByte a) → ∀ x ∈ p, x ∈ q := by
    intro p q hp hq hpq x hx
    have h1 := Memory.readByte_of_mem hp.1 hx
    rcases Memory.readByte_eq_or_mem q x.1 with h2 | h2
    · rw [← hpq, h1] at h2
      exact absurd h2 (hp.2 x hx)
    · rwa [← hpq, h1] at h2
  have hnd : ∀ {p : Memory}, p.wf → p.Nodup := fun hp => hp.1.imp fun {x y} hxy e => by rw [e] at hxy; omega
  have hperm : m.Perm m' := (List.perm_ext_iff_of_nodup (hnd hm) (hnd hm')).2 fun x =>
    ⟨key hm hm' h x, key hm' hm (fun a => (h a).symm) x⟩
  refine hperm.eq_of_pairwise (le := fun x y => x.1 < y.1) ?_ hm.1 hm'.1
  intro a b _ _ h1 h2
  omega

/-! ### Reads of several bytes, strided and listed writes -/

@[simp] theorem Memory.length_readBytes (m : Memory) (a n : Nat) : (m.readBytes a n).length = n := by
  simp [Memory.readBytes]

theorem Memory.getD_readBytes (m : Memory) (a : Nat) {n i : Nat} (h : i < n) (x : Byte) :
    (m.readBytes a n).getD i x = m.readByte (a + i) := by
  simp [Memory.readBytes, h]

/-- A strided write leaves every offset that is none of its places. -/
theorem Memory.readByte_writeStrided_ne (m : Memory) (a stride : Nat) (bs : List Byte) {a' : Nat}
    (h : ∀ j < bs.length, a' ≠ a + j * stride) : (m.writeStrided a stride bs).readByte a' = m.readByte a' := by
  induction bs generalizing m a with
  | nil => rfl
  | cons b bs ih =>
    have h0 : a' ≠ a := by simpa using h 0 (by simp)
    rw [Memory.writeStrided, ih (m.writeByte a b) (a + stride), Memory.readByte_writeByte_ne m b h0]
    intro j hj
    have := h (j + 1) (by simpa using hj)
    rwa [Nat.add_mul, Nat.one_mul, Nat.add_comm (j * stride), ← Nat.add_assoc] at this

/-- After a strided write, the place of byte `j` holds it if no later byte has the same place. -/
theorem Memory.readByte_writeStrided {m : Memory} (hm : m.wf) (a stride : Nat) (bs : List Byte) {j : Nat} (hj : j < bs.length)
    (hlast : ∀ j', j < j' → j' < bs.length → a + j' * stride ≠ a + j * stride) :
    (m.writeStrided a stride bs).readByte (a + j * stride) = bs.getD j 0#8 := by
  induction bs generalizing m a j with
  | nil => simp at hj
  | cons b bs ih =>
    rw [Memory.writeStrided]
    cases j with
    | zero =>
      rw [Memory.readByte_writeStrided_ne]
      · simp [Memory.readByte_writeByte_same hm.1]
      · intro i hi
        have := hlast (i + 1) (by omega) (by simpa using hi)
        rw [Nat.add_mul, Nat.one_mul] at this
        omega
    | succ j =>
      have hstep : ∀ i, a + (i + 1) * stride = a + stride + i * stride := fun i => by rw [Nat.add_mul, Nat.one_mul]; omega
      rw [hstep, ih (Memory.wf_writeByte hm a b) (a + stride) (by simpa using hj)]
      · simp
      · intro i hi hi'
        rw [← hstep, ← hstep]
        exact hlast (i + 1) (by omega) (by simpa using hi')

/-- Listed writes leave every offset that is none of theirs. -/
theorem Memory.readByte_writeAll_ne (m : Memory) (ws : List (Nat × Byte)) {a : Nat} (h : ∀ x ∈ ws, x.1 ≠ a) :
    (m.writeAll ws).readByte a = m.readByte a := by
  induction ws generalizing m with
  | nil => rfl
  | cons x ws ih =>
    show ((m.writeByte x.1 x.2).writeAll ws).readByte a = _
    rw [ih _ fun y hy => h y (List.mem_cons_of_mem _ hy), Memory.readByte_writeByte_ne m x.2 (h x List.mem_cons_self).symm]

/-- Listed writes that agree on an offset store their byte there. -/
theorem Memory.readByte_writeAll {m : Memory} (hm : m.wf) (ws : List (Nat × Byte)) {a : Nat} {b : Byte} (hmem : ∃ x ∈ ws, x.1 = a)
    (h : ∀ x ∈ ws, x.1 = a → x.2 = b) : (m.writeAll ws).readByte a = b := by
  induction ws generalizing m with
  | nil => simp at hmem
  | cons x ws ih =>
    show ((m.writeByte x.1 x.2).writeAll ws).readByte a = _
    by_cases hlater : ∃ y ∈ ws, y.1 = a
    · exact ih (Memory.wf_writeByte hm _ _) hlater fun y hy => h y (List.mem_cons_of_mem _ hy)
    · rw [Memory.readByte_writeAll_ne _ ws fun y hy hya => hlater ⟨y, hy, hya⟩]
      obtain ⟨y, hy, rfl⟩ := hmem
      rcases List.mem_cons.1 hy with rfl | hy
      · rw [Memory.readByte_writeByte_same hm.1, h y List.mem_cons_self rfl]
      · exact absurd ⟨y, hy, rfl⟩ hlater

end Sys2Proof.Machine
end

