-- ==== Sys2Proof/Laws/Grid.lean ====
section
/-! SUPPORT. Laws of the scratch matrix and of its move to and from MX. -/

namespace Sys2Proof.Machine

theorem Grid.cell_blank (w r c : Nat) : (Grid.blank w).cell r c = 0#8 := by
  simp only [Grid.cell, Grid.blank, List.getD_eq_getElem?_getD, List.getElem?_replicate]
  split <;> simp [*]

/-- Every cell after a write: the written cell, if it lies inside. -/
theorem Grid.cell_put (g : Grid) (r c : Nat) (b : Byte) (r' c' : Nat) :
    (g.put r c b).cell r' c' =
      if r' = r ∧ c' = c ∧ r < g.length ∧ c < (g.getD r []).length then b else g.cell r' c' := by
  simp only [Grid.cell, Grid.put, List.getD_eq_getElem?_getD, List.getElem?_modify]
  by_cases hr : r' = r
  · subst hr
    rcases h : g[r']? with _ | row
    · have : ¬ r' < g.length := by simpa using h
      simp [this]
    · have hl : r' < g.length := by
        rw [List.getElem?_eq_some_iff] at h
        exact h.choose
      by_cases hc : c' = c
      · subst hc
        by_cases hc2 : c' < row.length <;> simp [hl, hc2]
      · simp [hc, Ne.symm hc]
  · simp [hr, Ne.symm hr]

/-- `w` rows of `w` cells. -/
def Grid.square (w : Nat) (g : Grid) : Prop := g.length = w ∧ ∀ row ∈ g, row.length = w

theorem Grid.square_blank (w : Nat) : (Grid.blank w).square w := by
  refine ⟨by simp [Grid.blank], fun row h => ?_⟩
  rw [(List.mem_replicate.1 h).2, List.length_replicate]

theorem Grid.square_put {w : Nat} {g : Grid} (h : g.square w) (r c : Nat) (b : Byte) : (g.put r c b).square w := by
  refine ⟨by simp [Grid.put, h.1], fun row hrow => ?_⟩
  obtain ⟨i, hi, rfl⟩ := List.mem_iff_getElem.1 hrow
  simp only [Grid.put, List.getElem_modify]
  split
  · rw [List.length_set]; exact h.2 _ (List.getElem_mem _)
  · exact h.2 _ (List.getElem_mem _)

theorem Grid.square_putAll {w : Nat} {g : Grid} (h : g.square w) (ws : List CellWrite) : (g.putAll ws).square w := by
  induction ws generalizing g with
  | nil => exact h
  | cons x ws ih => exact ih (Grid.square_put h _ _ _)

theorem Grid.square_layout (v : Nat) (ps : List Nat) : (layout v ps).square (width v) :=
  Grid.square_putAll (Grid.square_blank _) _

/-- The one spec lemma of a write to a square matrix. -/
theorem Grid.cell_put_square {w : Nat} {g : Grid} (h : g.square w) (r c : Nat) (b : Byte) (r' c' : Nat) :
    (g.put r c b).cell r' c' = if r' = r ∧ c' = c ∧ r < w ∧ c < w then b else g.cell r' c' := by
  rw [Grid.cell_put, h.1]
  have : r < w → (g.getD r []).length = w := fun hr => by
    rw [List.getD_eq_getElem _ _ (by rw [h.1]; exact hr)]
    exact h.2 _ (List.getElem_mem _)
  by_cases hr : r < w
  · rw [this hr]
  · simp [hr]

/-- A cell outside a square matrix is EMPTY. -/
theorem Grid.cell_outside {w : Nat} {g : Grid} (h : g.square w) {r c : Nat} (ho : ¬ (r < w ∧ c < w)) : g.cell r c = 0#8 := by
  unfold Grid.cell
  by_cases hr : r < w
  · have hl : r < g.length := by rw [h.1]; exact hr
    rw [List.getD_eq_getElem _ _ hl, List.getD_eq_default]
    rw [h.2 _ (List.getElem_mem _)]
    omega
  · rw [List.getD_eq_default (l := g) (hn := by rw [h.1]; omega)]
    rfl

/-! ### MX -/

theorem mxIndex_inj {r c r' c' : Nat} (hc : c < Config.mxDim) (hc' : c' < Config.mxDim) (h : mxIndex r c = mxIndex r' c') :
    r = r' ∧ c = c' := by
  unfold mxIndex Config.mxDim at *
  omega

theorem Grid.mem_toMemory {w : Nat} {g : Grid} {x : Host.Cell} :
    x ∈ g.toMemory w ↔ ∃ r c, r < w ∧ c < w ∧ x = (mxIndex r c, g.cell r c) ∧ g.cell r c ≠ Memory.unlisted := by
  simp only [Grid.toMemory, List.mem_flatMap, List.mem_range, List.mem_filterMap, Option.ite_none_left_eq_some, Option.some.injEq]
  constructor
  · rintro ⟨r, hr, c, hc, hne, rfl⟩
    exact ⟨r, c, hr, hc, rfl, hne⟩
  · rintro ⟨r, c, hr, hc, rfl, hne⟩
    exact ⟨r, hr, c, hc, hne, rfl⟩

theorem Memory.wf_toMemory {w : Nat} (hw : w ≤ Config.mxDim) (g : Grid) : (g.toMemory w).wf := by
  refine ⟨?_, fun x hx => ?_⟩
  · rw [Grid.toMemory, List.pairwise_flatMap]
    refine ⟨fun r hr => ?_, ?_⟩
    · refine List.Pairwise.filterMap _ (fun a b hab x hx y hy => ?_) List.pairwise_lt_range
      simp only [Option.ite_none_left_eq_some, Option.some.injEq] at hx hy
      rw [← hx.2, ← hy.2]
      simp only [mxIndex]
      omega
    · refine List.pairwise_lt_range.imp fun {r r'} hrr x hx y hy => ?_
      simp only [List.mem_filterMap, List.mem_range, Option.ite_none_left_eq_some, Option.some.injEq] at hx hy
      obtain ⟨c, hc, -, rfl⟩ := hx
      obtain ⟨c', hc', -, rfl⟩ := hy
      simp only [mxIndex, Config.mxDim] at *
      omega
  · obtain ⟨r, c, -, -, rfl, hne⟩ := Grid.mem_toMemory.1 hx
    exact hne

/-- The one spec lemma of `MX <- M`: every cell of MX after it. -/
theorem Grid.readByte_toMemory {w : Nat} (hw : w ≤ Config.mxDim) {g : Grid} (hg : g.square w) {r c : Nat} (hc : c < Config.mxDim) :
    (g.toMemory w).readByte (mxIndex r c) = g.cell r c := by
  have hwf := Memory.wf_toMemory hw g
  rcases Memory.readByte_eq_or_mem (g.toMemory w) (mxIndex r c) with h | h
  · by_cases hne : g.cell r c = Memory.unlisted
    · rw [h, hne]
    · have hin : r < w ∧ c < w := by
        by_contra ho
        exact hne (Grid.cell_outside hg ho)
      exact Memory.readByte_of_mem hwf.1 (Grid.mem_toMemory.2 ⟨r, c, hin.1, hin.2, rfl, hne⟩)
  · obtain ⟨r', c', hr', hc', he, -⟩ := Grid.mem_toMemory.1 h
    have he' := Prod.mk.inj he
    obtain ⟨rfl, rfl⟩ := mxIndex_inj hc (by omega) he'.1
    exact he'.2

theorem Grid.within_toMemory {w : Nat} (hw : w ≤ Config.mxDim) (g : Grid) : (g.toMemory w).within Config.mxCells := by
  intro x hx
  obtain ⟨r, c, hr, hc, rfl, -⟩ := Grid.mem_toMemory.1 hx
  simp only [mxIndex, Config.mxDim, Config.mxCells] at *
  have : 177 * r ≤ 177 * 176 := Nat.mul_le_mul_left _ (by omega)
  omega

/-- A cell after several writes: the last write to it, or the cell before. -/
theorem Grid.cell_putAll {w : Nat} {g : Grid} (h : g.square w) (ws : List CellWrite) {r c : Nat} (hr : r < w) (hc : c < w) :
    (g.putAll ws).cell r c =
      match ws.reverse.find? fun x => x.1 = r ∧ x.2.1 = c with
      | some x => x.2.2
      | none => g.cell r c := by
  induction ws generalizing g with
  | nil => rfl
  | cons x ws ih =>
    show ((g.put x.1 x.2.1 x.2.2).putAll ws).cell r c = _
    rw [ih (Grid.square_put h _ _ _), List.reverse_cons, List.find?_append]
    cases hf : ws.reverse.find? fun x => x.1 = r ∧ x.2.1 = c with
    | some y => simp
    | none =>
      rw [Grid.cell_put_square h]
      by_cases hx : x.1 = r ∧ x.2.1 = c
      · obtain ⟨rfl, rfl⟩ := hx
        simp [hr, hc]
      · have hx' : ¬ (r = x.1 ∧ c = x.2.1 ∧ x.1 < w ∧ x.2.1 < w) := fun hh => hx ⟨hh.1.symm, hh.2.1.symm⟩
        simp [hx, hx']

end Sys2Proof.Machine
end

