-- ==== Sys2Proof/Laws/State.lean ====
section
/-! SUPPORT. One lemma per field per update of State, so that no proof unfolds a record update. -/

namespace Sys2Proof.Machine

variable (s : State)

/-! ### accept -/

@[simp] theorem State.accept_ctrl (w : Word) : (s.accept w).ctrl = s.ctrl := rfl
@[simp] theorem State.accept_status (w : Word) : (s.accept w).status = { s.status with done := false } := rfl
@[simp] theorem State.accept_cmd (w : Word) : (s.accept w).cmd = w := rfl
@[simp] theorem State.accept_params (w : Word) : (s.accept w).params = s.params := rfl
@[simp] theorem State.accept_gfR (w : Word) : (s.accept w).gfR = s.gfR := rfl
@[simp] theorem State.accept_rsSyndz (w : Word) : (s.accept w).rsSyndz = s.rsSyndz := rfl
@[simp] theorem State.accept_gen (w : Word) : (s.accept w).gen = s.gen := rfl
@[simp] theorem State.accept_symbol (w : Word) : (s.accept w).symbol = s.symbol := rfl
@[simp] theorem State.accept_pen (w : Word) : (s.accept w).pen = s.pen := rfl
@[simp] theorem State.accept_dbuf (w : Word) : (s.accept w).dbuf = s.dbuf := rfl
@[simp] theorem State.accept_cbuf (w : Word) : (s.accept w).cbuf = s.cbuf := rfl
@[simp] theorem State.accept_mx (w : Word) : (s.accept w).mx = s.mx := rfl
@[simp] theorem State.accept_seq (w : Word) : (s.accept w).seq = .exec w := rfl
@[simp] theorem State.accept_events (w : Word) : (s.accept w).events = s.events := rfl
@[simp] theorem State.accept_reply (w : Word) : (s.accept w).reply = s.reply := rfl

/-! ### complete -/

@[simp] theorem State.complete_ctrl : (s.complete).ctrl = s.ctrl := rfl
@[simp] theorem State.complete_status : (s.complete).status = { s.status with done := true } := rfl
@[simp] theorem State.complete_cmd : (s.complete).cmd = s.cmd := rfl
@[simp] theorem State.complete_params : (s.complete).params = s.params := rfl
@[simp] theorem State.complete_gfR : (s.complete).gfR = s.gfR := rfl
@[simp] theorem State.complete_rsSyndz : (s.complete).rsSyndz = s.rsSyndz := rfl
@[simp] theorem State.complete_gen : (s.complete).gen = s.gen := rfl
@[simp] theorem State.complete_symbol : (s.complete).symbol = s.symbol := rfl
@[simp] theorem State.complete_pen : (s.complete).pen = s.pen := rfl
@[simp] theorem State.complete_dbuf : (s.complete).dbuf = s.dbuf := rfl
@[simp] theorem State.complete_cbuf : (s.complete).cbuf = s.cbuf := rfl
@[simp] theorem State.complete_mx : (s.complete).mx = s.mx := rfl
@[simp] theorem State.complete_seq : (s.complete).seq = .idle := rfl
@[simp] theorem State.complete_events : (s.complete).events = s.events := rfl
@[simp] theorem State.complete_reply : (s.complete).reply = s.reply := rfl

/-! ### raiseFault -/

@[simp] theorem State.raiseFault_ctrl (c : FaultCode) : (s.raiseFault c).ctrl = s.ctrl := rfl
@[simp] theorem State.raiseFault_status (c : FaultCode) :
    (s.raiseFault c).status = { s.status with fault := true, fcode := if s.status.fcode = 0#8 then c.code else s.status.fcode } := rfl
@[simp] theorem State.raiseFault_cmd (c : FaultCode) : (s.raiseFault c).cmd = s.cmd := rfl
@[simp] theorem State.raiseFault_params (c : FaultCode) : (s.raiseFault c).params = s.params := rfl
@[simp] theorem State.raiseFault_gfR (c : FaultCode) : (s.raiseFault c).gfR = s.gfR := rfl
@[simp] theorem State.raiseFault_rsSyndz (c : FaultCode) : (s.raiseFault c).rsSyndz = s.rsSyndz := rfl
@[simp] theorem State.raiseFault_gen (c : FaultCode) : (s.raiseFault c).gen = s.gen := rfl
@[simp] theorem State.raiseFault_symbol (c : FaultCode) : (s.raiseFault c).symbol = s.symbol := rfl
@[simp] theorem State.raiseFault_pen (c : FaultCode) : (s.raiseFault c).pen = s.pen := rfl
@[simp] theorem State.raiseFault_dbuf (c : FaultCode) : (s.raiseFault c).dbuf = s.dbuf := rfl
@[simp] theorem State.raiseFault_cbuf (c : FaultCode) : (s.raiseFault c).cbuf = s.cbuf := rfl
@[simp] theorem State.raiseFault_mx (c : FaultCode) : (s.raiseFault c).mx = s.mx := rfl
@[simp] theorem State.raiseFault_seq (c : FaultCode) : (s.raiseFault c).seq = .idle := rfl
@[simp] theorem State.raiseFault_events (c : FaultCode) : (s.raiseFault c).events = s.events := rfl
@[simp] theorem State.raiseFault_reply (c : FaultCode) : (s.raiseFault c).reply = s.reply := rfl

/-! ### setAddrErr -/

@[simp] theorem State.setAddrErr_ctrl : (s.setAddrErr).ctrl = s.ctrl := rfl
@[simp] theorem State.setAddrErr_status : (s.setAddrErr).status = { s.status with addrErr := true } := rfl
@[simp] theorem State.setAddrErr_cmd : (s.setAddrErr).cmd = s.cmd := rfl
@[simp] theorem State.setAddrErr_params : (s.setAddrErr).params = s.params := rfl
@[simp] theorem State.setAddrErr_gfR : (s.setAddrErr).gfR = s.gfR := rfl
@[simp] theorem State.setAddrErr_rsSyndz : (s.setAddrErr).rsSyndz = s.rsSyndz := rfl
@[simp] theorem State.setAddrErr_gen : (s.setAddrErr).gen = s.gen := rfl
@[simp] theorem State.setAddrErr_symbol : (s.setAddrErr).symbol = s.symbol := rfl
@[simp] theorem State.setAddrErr_pen : (s.setAddrErr).pen = s.pen := rfl
@[simp] theorem State.setAddrErr_dbuf : (s.setAddrErr).dbuf = s.dbuf := rfl
@[simp] theorem State.setAddrErr_cbuf : (s.setAddrErr).cbuf = s.cbuf := rfl
@[simp] theorem State.setAddrErr_mx : (s.setAddrErr).mx = s.mx := rfl
@[simp] theorem State.setAddrErr_seq : (s.setAddrErr).seq = s.seq := rfl
@[simp] theorem State.setAddrErr_events : (s.setAddrErr).events = s.events := rfl
@[simp] theorem State.setAddrErr_reply : (s.setAddrErr).reply = s.reply := rfl

/-! ### setBusyErr -/

@[simp] theorem State.setBusyErr_ctrl : (s.setBusyErr).ctrl = s.ctrl := rfl
@[simp] theorem State.setBusyErr_status : (s.setBusyErr).status = { s.status with busyErr := true } := rfl
@[simp] theorem State.setBusyErr_cmd : (s.setBusyErr).cmd = s.cmd := rfl
@[simp] theorem State.setBusyErr_params : (s.setBusyErr).params = s.params := rfl
@[simp] theorem State.setBusyErr_gfR : (s.setBusyErr).gfR = s.gfR := rfl
@[simp] theorem State.setBusyErr_rsSyndz : (s.setBusyErr).rsSyndz = s.rsSyndz := rfl
@[simp] theorem State.setBusyErr_gen : (s.setBusyErr).gen = s.gen := rfl
@[simp] theorem State.setBusyErr_symbol : (s.setBusyErr).symbol = s.symbol := rfl
@[simp] theorem State.setBusyErr_pen : (s.setBusyErr).pen = s.pen := rfl
@[simp] theorem State.setBusyErr_dbuf : (s.setBusyErr).dbuf = s.dbuf := rfl
@[simp] theorem State.setBusyErr_cbuf : (s.setBusyErr).cbuf = s.cbuf := rfl
@[simp] theorem State.setBusyErr_mx : (s.setBusyErr).mx = s.mx := rfl
@[simp] theorem State.setBusyErr_seq : (s.setBusyErr).seq = s.seq := rfl
@[simp] theorem State.setBusyErr_events : (s.setBusyErr).events = s.events := rfl
@[simp] theorem State.setBusyErr_reply : (s.setBusyErr).reply = s.reply := rfl

/-! ### setGenerator -/

@[simp] theorem State.setGenerator_ctrl (k : Nat) (g : List Byte) : (s.setGenerator k g).ctrl = s.ctrl := rfl
@[simp] theorem State.setGenerator_status (k : Nat) (g : List Byte) :
    (s.setGenerator k g).status = { s.status with gpv := true } := rfl
@[simp] theorem State.setGenerator_cmd (k : Nat) (g : List Byte) : (s.setGenerator k g).cmd = s.cmd := rfl
@[simp] theorem State.setGenerator_params (k : Nat) (g : List Byte) : (s.setGenerator k g).params = s.params := rfl
@[simp] theorem State.setGenerator_gfR (k : Nat) (g : List Byte) : (s.setGenerator k g).gfR = s.gfR := rfl
@[simp] theorem State.setGenerator_rsSyndz (k : Nat) (g : List Byte) : (s.setGenerator k g).rsSyndz = s.rsSyndz := rfl
@[simp] theorem State.setGenerator_gen (k : Nat) (g : List Byte) :
    (s.setGenerator k g).gen = { gpoly := Vector.ofFn fun i => g.getD i.val 0#8, gpolyK := BitVec.ofNat 8 k } := rfl
@[simp] theorem State.setGenerator_symbol (k : Nat) (g : List Byte) : (s.setGenerator k g).symbol = s.symbol := rfl
@[simp] theorem State.setGenerator_pen (k : Nat) (g : List Byte) : (s.setGenerator k g).pen = s.pen := rfl
@[simp] theorem State.setGenerator_dbuf (k : Nat) (g : List Byte) : (s.setGenerator k g).dbuf = s.dbuf := rfl
@[simp] theorem State.setGenerator_cbuf (k : Nat) (g : List Byte) : (s.setGenerator k g).cbuf = s.cbuf := rfl
@[simp] theorem State.setGenerator_mx (k : Nat) (g : List Byte) : (s.setGenerator k g).mx = s.mx := rfl
@[simp] theorem State.setGenerator_seq (k : Nat) (g : List Byte) : (s.setGenerator k g).seq = s.seq := rfl
@[simp] theorem State.setGenerator_events (k : Nat) (g : List Byte) : (s.setGenerator k g).events = s.events := rfl
@[simp] theorem State.setGenerator_reply (k : Nat) (g : List Byte) : (s.setGenerator k g).reply = s.reply := rfl

/-! ### recordFreeCount -/

@[simp] theorem State.recordFreeCount_ctrl : (s.recordFreeCount).ctrl = s.ctrl := by simp only [State.recordFreeCount]
@[simp] theorem State.recordFreeCount_status : (s.recordFreeCount).status = s.status := by simp only [State.recordFreeCount]
@[simp] theorem State.recordFreeCount_cmd : (s.recordFreeCount).cmd = s.cmd := by simp only [State.recordFreeCount]
@[simp] theorem State.recordFreeCount_params : (s.recordFreeCount).params = s.params := by simp only [State.recordFreeCount]
@[simp] theorem State.recordFreeCount_gfR : (s.recordFreeCount).gfR = s.gfR := by simp only [State.recordFreeCount]
@[simp] theorem State.recordFreeCount_rsSyndz : (s.recordFreeCount).rsSyndz = s.rsSyndz := by simp only [State.recordFreeCount]
@[simp] theorem State.recordFreeCount_gen : (s.recordFreeCount).gen = s.gen := by simp only [State.recordFreeCount]
@[simp] theorem State.recordFreeCount_symbol :
    (s.recordFreeCount).symbol = { s.symbol with dataModules := BitVec.ofNat 16 s.params.freeCount } := by simp only [State.recordFreeCount]
@[simp] theorem State.recordFreeCount_pen : (s.recordFreeCount).pen = s.pen := by simp only [State.recordFreeCount]
@[simp] theorem State.recordFreeCount_dbuf : (s.recordFreeCount).dbuf = s.dbuf := by simp only [State.recordFreeCount]
@[simp] theorem State.recordFreeCount_cbuf : (s.recordFreeCount).cbuf = s.cbuf := by simp only [State.recordFreeCount]
@[simp] theorem State.recordFreeCount_mx : (s.recordFreeCount).mx = s.mx := by simp only [State.recordFreeCount]
@[simp] theorem State.recordFreeCount_seq : (s.recordFreeCount).seq = s.seq := by simp only [State.recordFreeCount]
@[simp] theorem State.recordFreeCount_events : (s.recordFreeCount).events = s.events := by simp only [State.recordFreeCount]
@[simp] theorem State.recordFreeCount_reply : (s.recordFreeCount).reply = s.reply := by simp only [State.recordFreeCount]

/-! ### buildWrites -/

@[simp] theorem State.buildWrites_ctrl : (s.buildWrites).ctrl = s.ctrl := by simp only [State.buildWrites]
@[simp] theorem State.buildWrites_status :
    (s.buildWrites).status = { s.status with built := true } := by simp only [State.buildWrites]
@[simp] theorem State.buildWrites_cmd : (s.buildWrites).cmd = s.cmd := by simp only [State.buildWrites]
@[simp] theorem State.buildWrites_params : (s.buildWrites).params = s.params := by simp only [State.buildWrites]
@[simp] theorem State.buildWrites_gfR : (s.buildWrites).gfR = s.gfR := by simp only [State.buildWrites]
@[simp] theorem State.buildWrites_rsSyndz : (s.buildWrites).rsSyndz = s.rsSyndz := by simp only [State.buildWrites]
@[simp] theorem State.buildWrites_gen : (s.buildWrites).gen = s.gen := by simp only [State.buildWrites]
@[simp] theorem State.buildWrites_pen : (s.buildWrites).pen = PenaltyRegs.reset := by simp only [State.buildWrites]
@[simp] theorem State.buildWrites_dbuf : (s.buildWrites).dbuf = s.dbuf := by simp only [State.buildWrites]
@[simp] theorem State.buildWrites_cbuf : (s.buildWrites).cbuf = s.cbuf := by simp only [State.buildWrites]
@[simp] theorem State.buildWrites_mx :
    (s.buildWrites).mx = (builtGrid s.params s.cbuf).toMemory (width s.params.v) := by simp only [State.buildWrites]
@[simp] theorem State.buildWrites_seq : (s.buildWrites).seq = s.seq := by simp only [State.buildWrites]
@[simp] theorem State.buildWrites_events : (s.buildWrites).events = s.events := by simp only [State.buildWrites]
@[simp] theorem State.buildWrites_reply : (s.buildWrites).reply = s.reply := by simp only [State.buildWrites]

/-! ### interleaveWrites -/

@[simp] theorem State.interleaveWrites_ctrl :
    (s.interleaveWrites).ctrl = s.ctrl := by simp only [State.interleaveWrites, State.setGenerator]
@[simp] theorem State.interleaveWrites_status :
    (s.interleaveWrites).status = { s.status with gpv := true } := by simp only [State.interleaveWrites, State.setGenerator]
@[simp] theorem State.interleaveWrites_cmd :
    (s.interleaveWrites).cmd = s.cmd := by simp only [State.interleaveWrites, State.setGenerator]
@[simp] theorem State.interleaveWrites_params :
    (s.interleaveWrites).params = s.params := by simp only [State.interleaveWrites, State.setGenerator]
@[simp] theorem State.interleaveWrites_gfR :
    (s.interleaveWrites).gfR = s.gfR := by simp only [State.interleaveWrites, State.setGenerator]
@[simp] theorem State.interleaveWrites_rsSyndz :
    (s.interleaveWrites).rsSyndz = s.rsSyndz := by simp only [State.interleaveWrites, State.setGenerator]
@[simp] theorem State.interleaveWrites_symbol :
    (s.interleaveWrites).symbol = s.symbol := by simp only [State.interleaveWrites, State.setGenerator]
@[simp] theorem State.interleaveWrites_pen :
    (s.interleaveWrites).pen = s.pen := by simp only [State.interleaveWrites, State.setGenerator]
@[simp] theorem State.interleaveWrites_dbuf :
    (s.interleaveWrites).dbuf = s.dbuf := by simp only [State.interleaveWrites, State.setGenerator]
@[simp] theorem State.interleaveWrites_cbuf :
    (s.interleaveWrites).cbuf = s.cbuf.writeStrided 0 1 (interleaved s.params s.dbuf) := by simp only [State.interleaveWrites, State.setGenerator]
@[simp] theorem State.interleaveWrites_mx :
    (s.interleaveWrites).mx = s.mx := by simp only [State.interleaveWrites, State.setGenerator]
@[simp] theorem State.interleaveWrites_seq :
    (s.interleaveWrites).seq = s.seq := by simp only [State.interleaveWrites, State.setGenerator]
@[simp] theorem State.interleaveWrites_events :
    (s.interleaveWrites).events = s.events := by simp only [State.interleaveWrites, State.setGenerator]
@[simp] theorem State.interleaveWrites_reply :
    (s.interleaveWrites).reply = s.reply := by simp only [State.interleaveWrites, State.setGenerator]

/-! ### rsBlockWrites -/

@[simp] theorem State.rsBlockWrites_ctrl :
    (s.rsBlockWrites).ctrl = s.ctrl := by simp only [State.rsBlockWrites, State.setGenerator]
@[simp] theorem State.rsBlockWrites_status :
    (s.rsBlockWrites).status = { s.status with gpv := true } := by simp only [State.rsBlockWrites, State.setGenerator]
@[simp] theorem State.rsBlockWrites_cmd : (s.rsBlockWrites).cmd = s.cmd := by simp only [State.rsBlockWrites, State.setGenerator]
@[simp] theorem State.rsBlockWrites_params :
    (s.rsBlockWrites).params = s.params := by simp only [State.rsBlockWrites, State.setGenerator]
@[simp] theorem State.rsBlockWrites_gfR : (s.rsBlockWrites).gfR = s.gfR := by simp only [State.rsBlockWrites, State.setGenerator]
@[simp] theorem State.rsBlockWrites_rsSyndz :
    (s.rsBlockWrites).rsSyndz = s.rsSyndz := by simp only [State.rsBlockWrites, State.setGenerator]
@[simp] theorem State.rsBlockWrites_symbol :
    (s.rsBlockWrites).symbol = s.symbol := by simp only [State.rsBlockWrites, State.setGenerator]
@[simp] theorem State.rsBlockWrites_pen : (s.rsBlockWrites).pen = s.pen := by simp only [State.rsBlockWrites, State.setGenerator]
@[simp] theorem State.rsBlockWrites_dbuf :
    (s.rsBlockWrites).dbuf = s.dbuf := by simp only [State.rsBlockWrites, State.setGenerator]
@[simp] theorem State.rsBlockWrites_mx : (s.rsBlockWrites).mx = s.mx := by simp only [State.rsBlockWrites, State.setGenerator]
@[simp] theorem State.rsBlockWrites_seq : (s.rsBlockWrites).seq = s.seq := by simp only [State.rsBlockWrites, State.setGenerator]
@[simp] theorem State.rsBlockWrites_events :
    (s.rsBlockWrites).events = s.events := by simp only [State.rsBlockWrites, State.setGenerator]
@[simp] theorem State.rsBlockWrites_reply :
    (s.rsBlockWrites).reply = s.reply := by simp only [State.rsBlockWrites, State.setGenerator]

/-! ### rsSyndWrites -/

@[simp] theorem State.rsSyndWrites_ctrl : (s.rsSyndWrites).ctrl = s.ctrl := by simp only [State.rsSyndWrites]
@[simp] theorem State.rsSyndWrites_status : (s.rsSyndWrites).status = s.status := by simp only [State.rsSyndWrites]
@[simp] theorem State.rsSyndWrites_cmd : (s.rsSyndWrites).cmd = s.cmd := by simp only [State.rsSyndWrites]
@[simp] theorem State.rsSyndWrites_params : (s.rsSyndWrites).params = s.params := by simp only [State.rsSyndWrites]
@[simp] theorem State.rsSyndWrites_gfR : (s.rsSyndWrites).gfR = s.gfR := by simp only [State.rsSyndWrites]
@[simp] theorem State.rsSyndWrites_gen : (s.rsSyndWrites).gen = s.gen := by simp only [State.rsSyndWrites]
@[simp] theorem State.rsSyndWrites_symbol : (s.rsSyndWrites).symbol = s.symbol := by simp only [State.rsSyndWrites]
@[simp] theorem State.rsSyndWrites_pen : (s.rsSyndWrites).pen = s.pen := by simp only [State.rsSyndWrites]
@[simp] theorem State.rsSyndWrites_dbuf : (s.rsSyndWrites).dbuf = s.dbuf := by simp only [State.rsSyndWrites]
@[simp] theorem State.rsSyndWrites_mx : (s.rsSyndWrites).mx = s.mx := by simp only [State.rsSyndWrites]
@[simp] theorem State.rsSyndWrites_seq : (s.rsSyndWrites).seq = s.seq := by simp only [State.rsSyndWrites]
@[simp] theorem State.rsSyndWrites_events : (s.rsSyndWrites).events = s.events := by simp only [State.rsSyndWrites]
@[simp] theorem State.rsSyndWrites_reply : (s.rsSyndWrites).reply = s.reply := by simp only [State.rsSyndWrites]

/-! ### scoreWrites -/

@[simp] theorem State.scoreWrites_ctrl (m : BitVec 3) : (s.scoreWrites m).ctrl = s.ctrl := by simp only [State.scoreWrites]
@[simp] theorem State.scoreWrites_status (m : BitVec 3) : (s.scoreWrites m).status = s.status := by simp only [State.scoreWrites]
@[simp] theorem State.scoreWrites_cmd (m : BitVec 3) : (s.scoreWrites m).cmd = s.cmd := by simp only [State.scoreWrites]
@[simp] theorem State.scoreWrites_params (m : BitVec 3) : (s.scoreWrites m).params = s.params := by simp only [State.scoreWrites]
@[simp] theorem State.scoreWrites_gfR (m : BitVec 3) : (s.scoreWrites m).gfR = s.gfR := by simp only [State.scoreWrites]
@[simp] theorem State.scoreWrites_rsSyndz (m : BitVec 3) :
    (s.scoreWrites m).rsSyndz = s.rsSyndz := by simp only [State.scoreWrites]
@[simp] theorem State.scoreWrites_gen (m : BitVec 3) : (s.scoreWrites m).gen = s.gen := by simp only [State.scoreWrites]
@[simp] theorem State.scoreWrites_symbol (m : BitVec 3) : (s.scoreWrites m).symbol = s.symbol := by simp only [State.scoreWrites]
@[simp] theorem State.scoreWrites_dbuf (m : BitVec 3) : (s.scoreWrites m).dbuf = s.dbuf := by simp only [State.scoreWrites]
@[simp] theorem State.scoreWrites_cbuf (m : BitVec 3) : (s.scoreWrites m).cbuf = s.cbuf := by simp only [State.scoreWrites]
@[simp] theorem State.scoreWrites_mx (m : BitVec 3) : (s.scoreWrites m).mx = s.mx := by simp only [State.scoreWrites]
@[simp] theorem State.scoreWrites_seq (m : BitVec 3) : (s.scoreWrites m).seq = s.seq := by simp only [State.scoreWrites]
@[simp] theorem State.scoreWrites_events (m : BitVec 3) : (s.scoreWrites m).events = s.events := by simp only [State.scoreWrites]
@[simp] theorem State.scoreWrites_reply (m : BitVec 3) : (s.scoreWrites m).reply = s.reply := by simp only [State.scoreWrites]

/-! ### commitWrites -/

@[simp] theorem State.commitWrites_ctrl (m : BitVec 3) : (s.commitWrites m).ctrl = s.ctrl := by simp only [State.commitWrites]
@[simp] theorem State.commitWrites_status (m : BitVec 3) :
    (s.commitWrites m).status = s.status := by simp only [State.commitWrites]
@[simp] theorem State.commitWrites_cmd (m : BitVec 3) : (s.commitWrites m).cmd = s.cmd := by simp only [State.commitWrites]
@[simp] theorem State.commitWrites_params (m : BitVec 3) :
    (s.commitWrites m).params = s.params := by simp only [State.commitWrites]
@[simp] theorem State.commitWrites_gfR (m : BitVec 3) : (s.commitWrites m).gfR = s.gfR := by simp only [State.commitWrites]
@[simp] theorem State.commitWrites_rsSyndz (m : BitVec 3) :
    (s.commitWrites m).rsSyndz = s.rsSyndz := by simp only [State.commitWrites]
@[simp] theorem State.commitWrites_gen (m : BitVec 3) : (s.commitWrites m).gen = s.gen := by simp only [State.commitWrites]
@[simp] theorem State.commitWrites_pen (m : BitVec 3) : (s.commitWrites m).pen = s.pen := by simp only [State.commitWrites]
@[simp] theorem State.commitWrites_dbuf (m : BitVec 3) : (s.commitWrites m).dbuf = s.dbuf := by simp only [State.commitWrites]
@[simp] theorem State.commitWrites_cbuf (m : BitVec 3) : (s.commitWrites m).cbuf = s.cbuf := by simp only [State.commitWrites]
@[simp] theorem State.commitWrites_mx (m : BitVec 3) :
    (s.commitWrites m).mx = commitMatrix (fmtWord s.params.level m) m s.mxWidth s.mx := by simp only [State.commitWrites]
@[simp] theorem State.commitWrites_seq (m : BitVec 3) : (s.commitWrites m).seq = s.seq := by simp only [State.commitWrites]
@[simp] theorem State.commitWrites_events (m : BitVec 3) :
    (s.commitWrites m).events = s.events := by simp only [State.commitWrites]
@[simp] theorem State.commitWrites_reply (m : BitVec 3) : (s.commitWrites m).reply = s.reply := by simp only [State.commitWrites]

/-! ### autoWrites -/

@[simp] theorem State.autoWrites_ctrl : (s.autoWrites).ctrl = s.ctrl := by simp only [State.autoWrites, State.commitWrites]
@[simp] theorem State.autoWrites_status : (s.autoWrites).status = s.status := by simp only [State.autoWrites, State.commitWrites]
@[simp] theorem State.autoWrites_cmd : (s.autoWrites).cmd = s.cmd := by simp only [State.autoWrites, State.commitWrites]
@[simp] theorem State.autoWrites_params : (s.autoWrites).params = s.params := by simp only [State.autoWrites, State.commitWrites]
@[simp] theorem State.autoWrites_gfR : (s.autoWrites).gfR = s.gfR := by simp only [State.autoWrites, State.commitWrites]
@[simp] theorem State.autoWrites_rsSyndz :
    (s.autoWrites).rsSyndz = s.rsSyndz := by simp only [State.autoWrites, State.commitWrites]
@[simp] theorem State.autoWrites_gen : (s.autoWrites).gen = s.gen := by simp only [State.autoWrites, State.commitWrites]
@[simp] theorem State.autoWrites_dbuf : (s.autoWrites).dbuf = s.dbuf := by simp only [State.autoWrites, State.commitWrites]
@[simp] theorem State.autoWrites_cbuf : (s.autoWrites).cbuf = s.cbuf := by simp only [State.autoWrites, State.commitWrites]
@[simp] theorem State.autoWrites_seq : (s.autoWrites).seq = s.seq := by simp only [State.autoWrites, State.commitWrites]
@[simp] theorem State.autoWrites_events : (s.autoWrites).events = s.events := by simp only [State.autoWrites, State.commitWrites]
@[simp] theorem State.autoWrites_reply : (s.autoWrites).reply = s.reply := by simp only [State.autoWrites, State.commitWrites]

/-! ### startReset -/

@[simp] theorem State.startReset_ctrl : (s.startReset).ctrl = State.reset.ctrl := rfl
@[simp] theorem State.startReset_status : (s.startReset).status = State.reset.status := rfl
@[simp] theorem State.startReset_cmd : (s.startReset).cmd = State.reset.cmd := rfl
@[simp] theorem State.startReset_params : (s.startReset).params = State.reset.params := rfl
@[simp] theorem State.startReset_gfR : (s.startReset).gfR = State.reset.gfR := rfl
@[simp] theorem State.startReset_rsSyndz : (s.startReset).rsSyndz = State.reset.rsSyndz := rfl
@[simp] theorem State.startReset_gen : (s.startReset).gen = State.reset.gen := rfl
@[simp] theorem State.startReset_symbol : (s.startReset).symbol = State.reset.symbol := rfl
@[simp] theorem State.startReset_pen : (s.startReset).pen = State.reset.pen := rfl
@[simp] theorem State.startReset_dbuf : (s.startReset).dbuf = State.reset.dbuf := rfl
@[simp] theorem State.startReset_cbuf : (s.startReset).cbuf = State.reset.cbuf := rfl
@[simp] theorem State.startReset_mx : (s.startReset).mx = State.reset.mx := rfl
@[simp] theorem State.startReset_seq : (s.startReset).seq = State.reset.seq := rfl
@[simp] theorem State.startReset_events : (s.startReset).events = s.events := rfl
@[simp] theorem State.startReset_reply : (s.startReset).reply = s.reply := rfl

end Sys2Proof.Machine
end

