-- ==== Sys2Proof/Laws/Ops.lean ====
section
/-! SUPPORT. What the shared operations can do, said once each. -/

namespace Sys2Proof.Machine

/-! ### Checks -/

@[simp] theorem firstFault_nil : firstFault [] = none := rfl

theorem firstFault_cons (b : Bool) (c : FaultCode) (rest : List (Bool × FaultCode)) :
    firstFault ((b, c) :: rest) = if b then some c else firstFault rest := rfl

/-- No fault: every check passes. -/
theorem firstFault_eq_none {l : List (Bool × FaultCode)} : firstFault l = none ↔ ∀ x ∈ l, x.1 = false := by
  induction l with
  | nil => simp
  | cons x l ih => obtain ⟨b, c⟩ := x; cases b <;> simp [firstFault_cons, ih]

/-- A fault: its check fails and every earlier one passes. -/
theorem firstFault_eq_some {l : List (Bool × FaultCode)} {c : FaultCode} :
    firstFault l = some c → ∃ l₁ l₂, l = l₁ ++ (true, c) :: l₂ ∧ ∀ x ∈ l₁, x.1 = false := by
  induction l with
  | nil => simp
  | cons x l ih =>
    obtain ⟨b, d⟩ := x
    cases b with
    | true =>
      intro h
      obtain rfl : d = c := by simpa [firstFault_cons] using h
      exact ⟨[], l, by simp⟩
    | false =>
      intro h
      obtain ⟨l₁, l₂, rfl, h₁⟩ := ih (by simpa [firstFault_cons] using h)
      exact ⟨(false, d) :: l₁, l₂, by simp, by simpa using h₁⟩

/-! ### The end of a command -/

@[simp] theorem State.conclude_none (s t : State) : s.conclude none t = .next t.complete := rfl

@[simp] theorem State.conclude_some (s t : State) (c : FaultCode) : s.conclude (some c) t = .next (s.raiseFault c) := rfl

/-- A command without a count check ends in a fault or completes. -/
theorem State.conclude_cases {s t u : State} {check : Option FaultCode} (h : s.conclude check t = .next u) :
    (∃ c, check = some c ∧ u = s.raiseFault c) ∨ (check = none ∧ u = t.complete) := by
  cases check with
  | none => exact .inr ⟨rfl, by simpa using h.symm⟩
  | some c => exact .inl ⟨c, rfl, by simpa using h.symm⟩

/-- A command that builds ends in an earlier fault, in LAYOUT_MISMATCH with the count recorded, or completes. -/
theorem State.concludeBuild_cases {s t u : State} (h : s.concludeBuild t = .next u) :
    (∃ c, firstFault s.params.buildChecks = some c ∧ u = s.raiseFault c) ∨
    (firstFault s.params.buildChecks = none ∧ s.params.mismatch = true ∧ u = s.recordFreeCount.raiseFault .layoutMismatch) ∨
    (firstFault s.params.buildChecks = none ∧ s.params.mismatch = false ∧ u = t.complete) := by
  unfold State.concludeBuild at h
  split at h
  · next c hc => exact .inl ⟨c, hc, by simpa using h.symm⟩
  · next hn =>
    split at h
    · next hm => exact .inr (.inl ⟨hn, hm, by simpa using h.symm⟩)
    · next hm => exact .inr (.inr ⟨hn, by simpa using hm, by simpa using h.symm⟩)

/-- The codes the block records are 1 to 9 (spec/60_exceptions.md R271). -/
theorem FaultCode.code_range (c : FaultCode) : 1 ≤ c.code.toNat ∧ c.code.toNat ≤ 9 := by
  cases c <;> decide

theorem FaultCode.code_ne_zero (c : FaultCode) : c.code ≠ 0#8 := by
  cases c <;> decide

theorem FaultCode.code_injective {c d : FaultCode} (h : c.code = d.code) : c = d := by
  cases c <;> cases d <;> first | rfl | exact absurd h (by decide)

end Sys2Proof.Machine
end

