-- ==== Sys2Proof/Laws/PerInstr.lean ====
section
/-! SUPPORT. Statements about every instruction as syntax, one lemma per constructor. -/

namespace Sys2Proof.Laws.EncodeFields

/-- The command word of an instruction holds its OP and ARG, and RSV = 0 (spec/30_encoding.md R100). -/
def Statement (i : Instr) : Prop :=
  opField (encode i) = i.op ∧ argField (encode i) = i.arg ∧ rsvField (encode i) = 0#16

theorem fields_append (a b : Byte) :
    opField ((0#16 ++ a) ++ b) = b ∧ argField ((0#16 ++ a) ++ b) = a ∧ rsvField ((0#16 ++ a) ++ b) = 0#16 := by
  refine ⟨?_, ?_, ?_⟩ <;> ext i hi
  · simp only [opField, BitVec.getElem_extractLsb', BitVec.getLsbD_append]
    simp [hi, BitVec.getLsbD_eq_getElem]
  · simp only [argField, BitVec.getElem_extractLsb', BitVec.getLsbD_append]
    simp [hi, BitVec.getLsbD_eq_getElem]
  · simp only [rsvField, BitVec.getElem_extractLsb', BitVec.getLsbD_append]
    simp [show ¬ 16 + i < 8 by omega, show ¬ 16 + i - 8 < 8 by omega]

theorem nop : Statement .nop := fields_append _ _
theorem gfMul : Statement .gfMul := fields_append _ _
theorem gfExp : Statement .gfExp := fields_append _ _
theorem gfLog : Statement .gfLog := fields_append _ _
theorem genPoly : Statement .genPoly := fields_append _ _
theorem rsBlock : Statement .rsBlock := fields_append _ _
theorem rsSynd : Statement .rsSynd := fields_append _ _
theorem interleave : Statement .interleave := fields_append _ _
theorem matrixBuild : Statement .matrixBuild := fields_append _ _
theorem maskScore (m : Nat) : Statement (.maskScore m) := fields_append _ _
theorem maskCommit (m : Nat) : Statement (.maskCommit m) := fields_append _ _
theorem maskAuto : Statement .maskAuto := fields_append _ _
theorem encodeAll : Statement .encodeAll := fields_append _ _

end Sys2Proof.Laws.EncodeFields
end

