-- ==== Sys2Proof/Laws/Port.lean ====
section
/-! SUPPORT. The address map of the window, said once per region (spec/20_memory.md R71). -/

namespace Sys2Proof.Machine

theorem placeOf_reg {off : Offset} (h : off.toNat < 0x180) : placeOf off = .reg (regAt (off.toNat / 4)) := by
  simp [placeOf, h]

theorem placeOf_unmapped_low {off : Offset} (h : 0x180 ≤ off.toNat) (h' : off.toNat < 0x1000) : placeOf off = .unmapped := by
  simp [placeOf, h', show ¬ off.toNat < 384 by omega]

theorem placeOf_dbuf {off : Offset} (h : 0x1000 ≤ off.toNat) (h' : off.toNat < 0x2000) :
    placeOf off = .dbuf (off.toNat - 0x1000) := by
  simp [placeOf, h', show ¬ off.toNat < 384 by omega, show ¬ off.toNat < 4096 by omega]

theorem placeOf_cbuf {off : Offset} (h : 0x2000 ≤ off.toNat) (h' : off.toNat < 0x3000) :
    placeOf off = .cbuf (off.toNat - 0x2000) := by
  simp [placeOf, h', show ¬ off.toNat < 384 by omega, show ¬ off.toNat < 4096 by omega, show ¬ off.toNat < 8192 by omega]

theorem placeOf_unmapped_high {off : Offset} (h : 0x3000 ≤ off.toNat) (h' : off.toNat < 0x8000) : placeOf off = .unmapped := by
  simp [placeOf, h', show ¬ off.toNat < 384 by omega, show ¬ off.toNat < 4096 by omega, show ¬ off.toNat < 8192 by omega,
    show ¬ off.toNat < 12288 by omega]

theorem placeOf_mx {off : Offset} (h : 0x8000 ≤ off.toNat) : placeOf off = .mx (off.toNat - 0x8000) := by
  simp [placeOf, show ¬ off.toNat < 384 by omega, show ¬ off.toNat < 4096 by omega, show ¬ off.toNat < 8192 by omega,
    show ¬ off.toNat < 12288 by omega, show ¬ off.toNat < 32768 by omega]

/-- Every register stands at its own offset (spec/10_state.md section 2). -/
theorem regAt_offset (r : Reg) : regAt (r.offset.toNat / 4) = r := by
  cases r with
  | alignPos i => revert i; decide
  | penalty m => revert m; decide
  | gpoly i => revert i; decide
  | _ => rfl

end Sys2Proof.Machine
end

