-- ==== Sys2Proof/Laws/Step.lean ====
section
/-! SUPPORT. What a host access, the sequencer and a step can do, said once each. -/

namespace Sys2Proof.Machine

/-! ### A host access, spec/20_memory.md R81 -/

theorem State.hostAccess_addrRefused {s : State} {a : Access} (h : a.addrRefused = true) :
    s.hostAccess a = { s.setAddrErr with reply := some a.refusedReply } := by
  unfold State.hostAccess
  rw [if_pos h]

theorem State.hostAccess_busyRefused {s : State} {a : Access} (h : a.addrRefused = false) (hb : s.busy = true)
    (ha : a.allowedBusy = false) : s.hostAccess a = { s.setBusyErr with reply := some a.refusedReply } := by
  unfold State.hostAccess
  rw [if_neg (by simp [h]), if_pos (by simp [hb, ha])]

theorem State.hostAccess_performed {s : State} {a : Access} (h : a.addrRefused = false)
    (hb : s.busy = false ∨ a.allowedBusy = true) : s.hostAccess a = s.perform a := by
  unfold State.hostAccess
  rw [if_neg (by simp [h]), if_neg (by rcases hb with hb | hb <;> simp [hb])]

/-- Every host access is one of the three. -/
theorem State.hostAccess_cases (s : State) (a : Access) :
    (a.addrRefused = true ∧ s.hostAccess a = { s.setAddrErr with reply := some a.refusedReply }) ∨
    (a.addrRefused = false ∧ s.busy = true ∧ a.allowedBusy = false ∧
      s.hostAccess a = { s.setBusyErr with reply := some a.refusedReply }) ∨
    (a.addrRefused = false ∧ (s.busy = false ∨ a.allowedBusy = true) ∧ s.hostAccess a = s.perform a) := by
  rcases h : a.addrRefused with _ | _
  · by_cases hb : s.busy = true ∧ a.allowedBusy = false
    · exact .inr (.inl ⟨rfl, hb.1, hb.2, State.hostAccess_busyRefused h hb.1 hb.2⟩)
    · have hb' : s.busy = false ∨ a.allowedBusy = true := by
        rcases h1 : s.busy with _ | _
        · exact .inl rfl
        · exact .inr (by rcases h2 : a.allowedBusy with _ | _ <;> simp_all)
      exact .inr (.inr ⟨rfl, hb', State.hostAccess_performed h hb'⟩)
  · exact .inl ⟨rfl, State.hostAccess_addrRefused h⟩

/-! ### The sequencer and the step -/

theorem State.sequencerTurn_init {s : State} (h : s.seq = .init) : s.sequencerTurn = .next { s with seq := .idle } := by
  unfold State.sequencerTurn
  rw [h]

theorem State.sequencerTurn_idle {s : State} (h : s.seq = .idle) : s.sequencerTurn = .next s := by
  unfold State.sequencerTurn
  rw [h]

theorem State.sequencerTurn_exec {s : State} {w : Word} (h : s.seq = .exec w) : s.sequencerTurn = s.executeWord w := by
  unfold State.sequencerTurn
  rw [h]

theorem State.executeWord_ok {s : State} {w : Word} {i : Instr} (h : decode w = .ok i) : s.executeWord w = exec i s := by
  unfold State.executeWord
  rw [h]

theorem State.executeWord_error {s : State} {w : Word} {e : Illegal} (h : decode w = .error e) :
    s.executeWord w = .next (s.raiseFault .illegalCmd) := by
  unfold State.executeWord
  rw [h]

/-- Everything a step can do: the sequencer's turn, a host access, or a hardware reset. -/
theorem step_cases (s : State) :
    (s.events = [] ∧ step s = s.sequencerTurn) ∨
    (∃ es, s.events = .sequencer :: es ∧ step s = { s with events := es }.sequencerTurn) ∨
    (∃ a es, s.events = .host a :: es ∧ step s = .next ({ s with events := es }.hostAccess a)) ∨
    (∃ es, s.events = .hardReset :: es ∧ step s = .next { s with events := es }.startReset) := by
  unfold step
  rcases h : s.events with _ | ⟨e, es⟩
  · exact .inl ⟨rfl, rfl⟩
  · cases e with
    | host a => exact .inr (.inr (.inl ⟨a, es, rfl, rfl⟩))
    | sequencer => exact .inr (.inl ⟨es, rfl, rfl⟩)
    | hardReset => exact .inr (.inr (.inr ⟨es, rfl, rfl⟩))

/-- Everything the sequencer's turn can do. -/
theorem State.sequencerTurn_cases (s : State) :
    (s.seq = .init ∧ s.sequencerTurn = .next { s with seq := .idle }) ∨ (s.seq = .idle ∧ s.sequencerTurn = .next s) ∨
    (∃ w i, s.seq = .exec w ∧ decode w = .ok i ∧ s.sequencerTurn = exec i s) ∨
    (∃ w e, s.seq = .exec w ∧ decode w = .error e ∧ s.sequencerTurn = .next (s.raiseFault .illegalCmd)) := by
  rcases h : s.seq with _ | _ | w
  · exact .inl ⟨rfl, State.sequencerTurn_init h⟩
  · exact .inr (.inl ⟨rfl, State.sequencerTurn_idle h⟩)
  · rcases hd : decode w with e | i
    · exact .inr (.inr (.inr ⟨w, e, rfl, hd, by rw [State.sequencerTurn_exec h, State.executeWord_error hd]⟩))
    · exact .inr (.inr (.inl ⟨w, i, rfl, hd, by rw [State.sequencerTurn_exec h, State.executeWord_ok hd]⟩))

/-- Every command ends in one of the two ends of a command: with checks and an outcome, or with the count check of a build between
them. -/
theorem exec_ends (i : Instr) (s : State) :
    (∃ check t, exec i s = s.conclude check t) ∨ ((i = .matrixBuild ∨ i = .encodeAll) ∧ ∃ t, exec i s = s.concludeBuild t) := by
  cases i
  case matrixBuild => exact .inr ⟨.inl rfl, _, rfl⟩
  case encodeAll => exact .inr ⟨.inr rfl, _, rfl⟩
  case nop => unfold exec execNop; exact .inl ⟨_, _, rfl⟩
  case gfMul => unfold exec execGfMul; exact .inl ⟨_, _, rfl⟩
  case gfExp => unfold exec execGfExp; exact .inl ⟨_, _, rfl⟩
  case gfLog => unfold exec execGfLog; exact .inl ⟨_, _, rfl⟩
  case genPoly => unfold exec execGenPoly; exact .inl ⟨_, _, rfl⟩
  case rsBlock => unfold exec execRsBlock; exact .inl ⟨_, _, rfl⟩
  case rsSynd => unfold exec execRsSynd; exact .inl ⟨_, _, rfl⟩
  case interleave => unfold exec execInterleave; exact .inl ⟨_, _, rfl⟩
  case maskScore => unfold exec execMaskScore; exact .inl ⟨_, _, rfl⟩
  case maskCommit => unfold exec execMaskCommit; exact .inl ⟨_, _, rfl⟩
  case maskAuto => unfold exec execMaskAuto; exact .inl ⟨_, _, rfl⟩

end Sys2Proof.Machine
end

