-- ==== Sys2Proof/Machine/Script.lean ====
section
/-! DEFINITION. The host scripts of spec/30_encoding.md R107 and R108, as the inputs they stand for. -/

namespace Sys2Proof.Machine

/-- `wr NAME, v` -/
def scriptWr (r : Reg) (v : Word) : List Event := [.host (.write32 r.offset v)]

/-- `rd NAME` -/
def scriptRd (r : Reg) : List Event := [.host (.read32 r.offset)]

/-- `wrb DBUF[a], v` -/
def scriptWrbDbuf (a : Nat) (v : Byte) : List Event := [.host (.write8 (BitVec.ofNat 16 (0x1000 + a)) v)]

/-- `wrb CBUF[a], v` -/
def scriptWrbCbuf (a : Nat) (v : Byte) : List Event := [.host (.write8 (BitVec.ofNat 16 (0x2000 + a)) v)]

/-- `rdb DBUF[a]` -/
def scriptRdbDbuf (a : Nat) : List Event := [.host (.read8 (BitVec.ofNat 16 (0x1000 + a)))]

/-- `rdb CBUF[a]` -/
def scriptRdbCbuf (a : Nat) : List Event := [.host (.read8 (BitVec.ofNat 16 (0x2000 + a)))]

/-- `rdb MX[r][c]` -/
def scriptRdbMx (r c : Nat) : List Event := [.host (.read8 (BitVec.ofNat 16 (0x8000 + 177 * r + c)))]

/-- `cmd MNEMONIC` or `cmd MNEMONIC m` -/
def scriptCmd (i : Instr) : List Event := scriptWr .cmd (encode i)

/-- `wait` (R108): `polls` reads of STATUS that find BUSY = 1, the completion, and the read that finds BUSY = 0 (log entry 11). -/
def scriptWait (polls : Nat) : List Event :=
  (List.range polls).flatMap (fun _ => scriptRd .status) ++ [.sequencer] ++ scriptRd .status

/-- `run MNEMONIC` or `run MNEMONIC m` (R108). -/
def scriptRun (i : Instr) (polls : Nat) : List Event := scriptCmd i ++ scriptWait polls

/-- `load DBUF[a], b0, b1, …` (R108). -/
def scriptLoadDbuf (a : Nat) : List Byte → List Event
  | [] => []
  | b :: bs => scriptWrbDbuf a b ++ scriptLoadDbuf (a + 1) bs

/-- `load CBUF[a], b0, b1, …` (R108's `load` for the other buffer of R107). -/
def scriptLoadCbuf (a : Nat) : List Byte → List Event
  | [] => []
  | b :: bs => scriptWrbCbuf a b ++ scriptLoadCbuf (a + 1) bs

/-- `clr` (R108). -/
def scriptClr : List Event := scriptWr .status 0x0000001E#32

/-- `layout B1, D1, B2, K` (R108). -/
def scriptLayout (b1 d1 b2 k : Word) : List Event :=
  scriptWr .ilvB1 b1 ++ scriptWr .ilvD1 d1 ++ scriptWr .ilvB2 b2 ++ scriptWr .rsK k

/-- ALIGN_POSi for i below 7. -/
def alignPosReg (i : Nat) : Reg := if h : i < 7 then .alignPos ⟨i, h⟩ else .reserved

/-- `align p0, …, pm−1` (R108). -/
def scriptAlign (ps : List Word) : List Event :=
  scriptWr .alignCnt (BitVec.ofNat 32 ps.length) ++ ps.zipIdx.flatMap fun x => scriptWr (alignPosReg x.2) x.1

end Sys2Proof.Machine
end

