-- ==== Sys2Proof/Tests/Slice0.lean ====
section
/-! SUPPORT. The model's own tests: ill-formed terms, words written out from spec/30_encoding.md R106, one-step tests with results taken
from spec/95_test_vectors.md, and for every statement with hypotheses a witness that meets them. -/

namespace Sys2Proof.Tests

open Sys2Proof Sys2Proof.Machine Sys2Proof.Safety Sys2Proof.Terms

/-! ### Ill-formed terms, R102 -/

theorem test_wf_refuses_score_8 : (Instr.maskScore 8).wellFormed = false := by decide
theorem test_wf_refuses_commit_8 : (Instr.maskCommit 8).wellFormed = false := by decide
theorem test_wf_accepts_score_7 : (Instr.maskScore 7).wellFormed = true := by decide

/-! ### Words, bit by bit from R106 -/

theorem test_word_nop : decode 0b00000000000000000000000000000000#32 = .ok .nop := by decide
theorem test_word_gfMul : decode 0b00000000000000000000000000010000#32 = .ok .gfMul := by decide
theorem test_word_gfExp : decode 0b00000000000000000000000000010001#32 = .ok .gfExp := by decide
theorem test_word_gfLog : decode 0b00000000000000000000000000010010#32 = .ok .gfLog := by decide
theorem test_word_genPoly : decode 0b00000000000000000000000000100000#32 = .ok .genPoly := by decide
theorem test_word_rsBlock : decode 0b00000000000000000000000000100001#32 = .ok .rsBlock := by decide
theorem test_word_rsSynd : decode 0b00000000000000000000000000100010#32 = .ok .rsSynd := by decide
theorem test_word_interleave : decode 0b00000000000000000000000000110000#32 = .ok .interleave := by decide
theorem test_word_matrixBuild : decode 0b00000000000000000000000001000000#32 = .ok .matrixBuild := by decide
theorem test_word_maskScore : decode 0b00000000000000000000010101010000#32 = .ok (.maskScore 5) := by decide
theorem test_word_maskCommit : decode 0b00000000000000000000011101010001#32 = .ok (.maskCommit 7) := by decide
theorem test_word_maskAuto : decode 0b00000000000000000000000001010010#32 = .ok .maskAuto := by decide
theorem test_word_encodeAll : decode 0b00000000000000000000000001100000#32 = .ok .encodeAll := by decide

/-- The illegal words of T470, each by the condition of R104 it breaks. -/
theorem test_illegal_words :
    decode 0x00000850#32 = .error .badArg ∧ decode 0x00000152#32 = .error .badArg ∧ decode 0x00000110#32 = .error .badArg ∧
    decode 0x00010000#32 = .error .reservedBits ∧ decode 0x00010060#32 = .error .reservedBits ∧
    decode 0x00000013#32 = .error .reservedOp ∧ decode 0x00000053#32 = .error .reservedOp ∧
    decode 0x000000FF#32 = .error .reservedOp ∧ decode 0xFFFFFFFF#32 = .error .reservedBits := by decide

/-! ### Small states -/

/-- The state after the reset initialisation. -/
def idle : State := { State.reset with seq := .idle }

/-- An idle state with given parameters and data. -/
def withData (p : Params) (data : List Byte) : State :=
  { idle with params := p, dbuf := Memory.writeStrided [] 0 1 data }

/-- The next state of an outcome. -/
def after : Host.Outcome State Fault Refusal → State
  | .next s => s
  | .fault _ => State.reset
  | .refused _ => State.reset

/-- `n` bytes of CBUF after an outcome. -/
def cbufAfter (o : Host.Outcome State Fault Refusal) (n : Nat) : List Nat :=
  ((after o).cbuf.readBytes 0 n).map BitVec.toNat

/-- Single-block parameters: K, N, DST, STRIDE. -/
def single (k : BitVec 8) (n : BitVec 13) (dst stride : BitVec 12) : Params :=
  { Params.reset with rsK := k, rsN := n, rsDst := dst, rsStride := stride }

/-- Layout parameters: B1, D1, B2, K. -/
def blocks (b1 d1 b2 k : BitVec 8) : Params := { Params.reset with ilvB1 := b1, ilvD1 := d1, ilvB2 := b2, rsK := k }

/-- The parameters of the HELLO WORLD symbol, version 1-M (T450). -/
def hello : Params := { blocks 1 16 0 10 with version := 1, level := 1 }

/-! ### One step of each command, T410 to T456 -/

theorem test_nop : after (exec .nop idle) = { idle with status := { Status.reset with done := true } } := by decide

/-- T411: 53 ⊗ CA = 8F. -/
theorem test_gfMul_53_CA : (after (exec .gfMul { idle with params := { Params.reset with gfA := 0x53, gfB := 0xCA } })).gfR = 0x8F#8 := by
  decide +kernel

/-- T411: FF ⊗ FF = E2. -/
theorem test_gfMul_FF_FF : (after (exec .gfMul { idle with params := { Params.reset with gfA := 0xFF, gfB := 0xFF } })).gfR = 0xE2#8 := by
  decide +kernel

/-- T412: the exponent 255 is 0. -/
theorem test_gfExp_255 : (after (exec .gfExp { idle with params := { Params.reset with gfA := 255 } })).gfR = 0x01#8 := by
  decide +kernel

/-- T412 -/
theorem test_gfExp_100 : (after (exec .gfExp { idle with params := { Params.reset with gfA := 100 } })).gfR = 0x11#8 := by
  decide +kernel

/-- T412 -/
theorem test_gfLog_53 : (after (exec .gfLog { idle with params := { Params.reset with gfA := 0x53 } })).gfR = 206#8 := by
  decide +kernel

/-- T412: GF_LOG of 0 faults 0x09 and keeps GF_R. -/
theorem test_gfLog_0 :
    let t := after (exec .gfLog { idle with gfR := 7 })
    t.gfR = 7#8 ∧ t.status.fcode = 9#8 ∧ t.status.fault = true ∧ t.status.done = false := by
  decide +kernel

/-- T420, K = 10. -/
theorem test_genPoly_10 :
    (((after (exec .genPoly { idle with params := { Params.reset with rsK := 10 } })).gen.gpoly).toList.take 12).map BitVec.toNat =
      [0xC1, 0x9D, 0x71, 0x5F, 0x5E, 0xC7, 0x6F, 0x9F, 0xC2, 0xD8, 0x01, 0x00] := by
  decide +kernel

/-- T424: K = 31 faults BAD_K. -/
theorem test_genPoly_31 : (after (exec .genPoly { idle with params := { Params.reset with rsK := 31 } })).status.fcode = 2#8 := by
  decide +kernel

/-- T423, the row 1..10 with K = 7. -/
theorem test_rsBlock_1_to_10 :
    cbufAfter (exec .rsBlock (withData (single 7 10 0 1) [1, 2, 3, 4, 5, 6, 7, 8, 9, 10])) 8 =
      [94, 45, 195, 166, 211, 0, 206, 0] := by
  decide +kernel

/-- T423, the row 255 255 255 with K = 3, here with STRIDE = 0: the last ECC byte stays. -/
theorem test_rsBlock_stride_0 :
    cbufAfter (exec .rsBlock (withData (single 3 3 1 0) [255, 255, 255])) 3 = [0, 110, 0] := by
  decide +kernel

/-- T422: K = 2, N = 1 on the bytes 5, 7, 9. -/
theorem test_rsSynd_5_7_9 :
    let o := exec .rsSynd (withData (single 2 1 0 1) [5, 7, 9])
    cbufAfter o 3 = [11, 19, 0] ∧ (after o).rsSyndz = false ∧ (after o).status.gpv = false := by
  decide +kernel

/-- T423: the data 1 with K = 2 has the ECC 3 2, so its codeword has zero syndromes (R145). -/
theorem test_rsSynd_codeword :
    let o := exec .rsSynd (withData (single 2 1 0 1) [1, 3, 2])
    cbufAfter o 2 = [0, 0] ∧ (after o).rsSyndz = true := by
  decide +kernel

/-- T431, layout 2, 3, 0, 2. -/
theorem test_interleave_one_group :
    cbufAfter (exec .interleave (withData (blocks 2 3 0 2) [10, 11, 12, 13, 14, 15])) 11 =
      [10, 13, 11, 14, 12, 15, 67, 112, 78, 124, 0] := by
  decide +kernel

/-- T431, layout 1, 3, 1, 2. -/
theorem test_interleave_two_groups :
    cbufAfter (exec .interleave (withData (blocks 1 3 1 2) [1, 2, 3, 4, 5, 6, 7])) 12 =
      [1, 4, 2, 5, 3, 6, 7, 4, 84, 4, 84, 0] := by
  decide +kernel

/-- T440, version 1: F = 208 = 8 · 26, so the count check of the HELLO WORLD parameters passes. -/
theorem test_hello_count : hello.mismatch = false := by decide +kernel

/-- The example of spec/43_matrix.md R211: CBUF[0] = 32 lands its 1 bit at (19, 20). -/
theorem test_matrixBuild_hello :
    let t := after (exec .matrixBuild { idle with params := hello, cbuf := [(0, 32)] })
    [t.mxCell 20 20, t.mxCell 19 20, t.mxCell 19 19, t.mxCell 8 0, t.mxCell 13 8] = [0x02#8, 0x0E, 0x02, 0x03, 0x05] := by
  decide +kernel

/-- T444: VERSION = 1 with REMBITS = 1 faults LAYOUT_MISMATCH and records 208. -/
theorem test_matrixBuild_mismatch :
    let t := after (exec .matrixBuild { idle with params := { hello with remBits := 1 } })
    t.status.fcode = 7#8 ∧ t.symbol.dataModules = 208#16 ∧ t.status.built = false := by
  decide +kernel

/-- A version 1 matrix to try the mask commands on: every free and format cell in place, RAW = 0, the other function cells light. -/
def drawnCell (r c : Nat) : Byte :=
  if formatIndex 21 r c ≠ none then 0x03#8 else if layoutCell 1 [] r c = 0#8 then 0x02#8 else 0x01#8

/-- Its rows. -/
def drawnGrid : Grid := (List.range 21).map fun r => (List.range 21).map fun c => drawnCell r c

/-- A state that holds it, at LEVEL = M. -/
def drawn : State :=
  { idle with
    params := hello
    mx := drawnGrid.toMemory 21
    symbol := { SymbolRegs.reset with mxVer := 1#6 }
    status := { Status.reset with built := true } }

/-- The example of spec/44_mask.md R241: mask 0 at LEVEL = M gives FMT_BITS = 0x5412, MX[8][0] = 0x07, and 0x06 for RAW 0 with mask bit
1. -/
theorem test_maskCommit_0 :
    let t := after (exec (.maskCommit 0) drawn)
    t.symbol.fmtBits = 0x5412#15 ∧ [t.mxCell 8 0, t.mxCell 20 20, t.mxCell 20 19, t.mxCell 0 0] = [0x07#8, 0x06, 0x02, 0x01] := by
  decide +kernel

/-- T455: under mask 3 MX[20][20] has mask bit 0 and MX[20][19] mask bit 1. -/
theorem test_maskCommit_3 :
    let t := after (exec (.maskCommit 3) drawn)
    t.symbol.fmtBits = 0x5B4B#15 ∧ t.symbol.maskSel = { mask := 3, valid := true } ∧
      [t.mxCell 20 20, t.mxCell 20 19] = [0x02#8, 0x06] := by
  decide +kernel

/-- R220: a mask command without a matrix faults NOT_BUILT. -/
theorem test_maskScore_not_built : (after (exec (.maskScore 2) idle)).status.fcode = 8#8 := by decide

/-- T471: the lines `000010111010000000000` and `101110100001011101000`. -/
theorem test_lines :
    let l₁ := [0, 0, 0, 0, 1, 0, 1, 1, 1, 0, 1, 0, 0, 0, 0, 0, 0, 0, 0, 0, 0].map fun x => decide (x = 1)
    let l₂ := [1, 0, 1, 1, 1, 0, 1, 0, 0, 0, 0, 1, 0, 1, 1, 1, 0, 1, 0, 0, 0].map fun x => decide (x = 1)
    lineRuns l₁ = 8 ∧ lineFinders 21 l₁ = 40 ∧ lineRuns l₂ = 0 ∧ lineFinders 21 l₂ = 80 := by
  decide

/-- T453 and T456: the selections of the two lists of totals; equal totals select mask 0 (R242). -/
theorem test_selection :
    selectMask [1031, 1086, 1162, 1103, 1087, 1208, 1115, 1085] = 0 ∧
    selectMask [1065, 1123, 1108, 1111, 1118, 1139, 1082, 1003] = 7 ∧ selectMask [9, 9, 9, 9, 9, 9, 9, 9] = 0 := by
  decide

/-- R261: ENCODE_ALL with VERSION = 41 faults BAD_VERSION with no byte of CBUF written. -/
theorem test_encodeAll_bad_version :
    let t := after (exec .encodeAll { idle with params := { hello with version := 41 }, dbuf := [(0, 1)] })
    t.status.fcode = 5#8 ∧ t.cbuf = [] ∧ t.status.gpv = false := by
  decide +kernel

/-- T441 and T442. -/
theorem test_information_words : fmtWord 3 7 = 0x083B#15 ∧ fmtWord 2 0 = 0x355F#15 ∧ verWord 7 = 0x07C94#18 ∧ verWord 40 = 0x28C69#18 := by
  decide

/-- T473. -/
theorem test_balance : [penaltyD 21 198, penaltyD 21 199, penaltyD 21 265, penaltyD 21 176, penaltyD 20 180] = [10, 0, 20, 20, 10] := by
  decide

/-- T443: the first free modules of version 1. -/
theorem test_zigzag_start : (zigzag 21).take 4 = [(20, 20), (20, 19), (19, 20), (19, 19)] := by decide

/-- R107, R108: the script `wr RS_K, 10` followed by `run GEN_POLY` with one poll that finds BUSY = 1 is five inputs. -/
theorem test_script : (scriptWr .rsK 10#32 ++ scriptRun .genPoly 1).length = 5 := by decide

/-- The very next step runs a placed word. -/
theorem test_placed_word : step (State.reset.withFetchWord 32 0x00000000) = .next
    { idle with status := { Status.reset with done := true } } := by
  rfl

/-! ### Witnesses: for every statement with hypotheses, a state and operands that meet them -/

/-- An idle state in which the word `w` has been accepted. -/
def accepted (w : Word) : State := idle.accept w

theorem test_witness_DecodeEncodeInverse :
    (Instr.maskCommit 7).wellFormed = true ∧ (Instr.encodeAll).wellFormed = true ∧ decode 0x00000750#32 = .ok (.maskScore 7) := by
  decide

/-- The hypotheses of LegalWords, IllegalCommandWord and AcceptedCommandCompletes: an accepted, and an idle state and, an illegal word. -/
theorem test_witness_LegalWords_IllegalCommandWord :
    (accepted 0x13#32).seq = .exec 0x13#32 ∧ idle.seq = .idle ∧ ∀ i, decode 0x13#32 ≠ .ok i :=
  ⟨by decide, by decide, fun i h => by
    have : decode 0x13#32 = .error .reservedOp := by decide
    rw [this] at h
    cases h⟩

theorem test_witness_TableWordsDecode : (0 : Nat) < 8 ∧ (7 : Nat) < 8 := by decide

theorem test_witness_StepRunsAcceptedCommand :
    (accepted 0x10#32).seq = .exec 0x10#32 ∧ decode 0x10#32 = .ok .gfMul ∧ (accepted 0x10#32).events = [] ∧
    ({ accepted 0x10#32 with events := [.sequencer] }).events = .sequencer :: [] ∧
    ({ idle with events := [.host (.read32 8#16)] }).events = .host (.read32 8#16) :: [] ∧
    ({ idle with events := [.hardReset] }).events = .hardReset :: [] := by
  decide

theorem test_witness_AcceptedCommandCompletes : (accepted 0x60#32).seq = .exec 0x60#32 := by decide

theorem test_witness_ExpLogTables : (0 : Nat) < 254 ∧ (253 : Nat) < 254 ∧ (0x01#8 : Byte) ≠ 0#8 ∧ (254 : Nat) < 255 ∧
    gfExp 254 = 0x8E#8 := by
  decide +kernel

theorem test_witness_GfMulFieldLaws : (0xFF#8 : Byte) ≠ 0#8 := by decide

/-- The two cases of PlainWord, and of MaskWord, for a word of each opcode. -/
theorem test_witness_words :
    (∀ op ∈ [0x00, 0x10, 0x11, 0x12, 0x20, 0x21, 0x22, 0x30, 0x40, 0x52, 0x60],
      (BitVec.ofNat 32 op).toNat % 256 = op ∧ (BitVec.ofNat 32 op).toNat / 256 = 0 ∧
      (BitVec.ofNat 32 (op + 256)).toNat % 256 = op ∧ (BitVec.ofNat 32 (op + 256)).toNat / 256 ≠ 0) ∧
    (∀ op ∈ [0x50, 0x51],
      (BitVec.ofNat 32 (op + 0x700)).toNat % 256 = op ∧ (BitVec.ofNat 32 (op + 0x700)).toNat / 2048 = 0 ∧
      (BitVec.ofNat 32 (op + 0x800)).toNat % 256 = op ∧ (BitVec.ofNat 32 (op + 0x800)).toNat / 2048 ≠ 0) ∧
    (accepted 0x110#32).seq = .exec 0x110#32 := by
  decide

theorem test_witness_GfMulCommand : (0x01#8 : Byte) ≠ 0#8 := by decide

theorem test_witness_GfLogCommand : idle.params.gfA = 0#8 ∧ ({ Params.reset with gfA := 1 } : Params).gfA ≠ 0#8 := by decide

theorem test_witness_EccIsRemainder_CodewordSyndromesVanish : 1 ≤ 1 ∧ (0 : Nat) < 1 := by decide

theorem test_witness_EccCornerCases :
    Instr.genPoly ∈ [Instr.genPoly, .rsBlock, .rsSynd, .interleave, .matrixBuild, .encodeAll] ∧ idle.params.rsK = 0#8 := by
  decide

theorem test_witness_GenPolyCommand :
    kIllegal (single 0 0 0 0) ∧ kIllegal (single 31 0 0 0) ∧ ¬ kIllegal (single 1 0 0 0) ∧ ¬ kIllegal (single 30 0 0 0) := by
  unfold kIllegal
  decide

/-- An idle state with canonical memories. -/
theorem idle_canonical (p : Params) : MemoriesCanonical { idle with params := p } := by
  exact ⟨Memory.wf_nil, Memory.wf_nil, Memory.wf_nil⟩

/-- The clauses of RsBlockCommand at the bounds of T424: SRC + N = 4096 and 4097, DST + 9 = 4095 and 4096, STRIDE = 0. -/
theorem test_witness_RsBlockCommand :
    let inRange := fun p : Params =>
      p.rsSrc.toNat + p.rsN.toNat ≤ 4096 ∧ p.rsDst.toNat + (p.rsK.toNat - 1) * p.rsStride.toNat ≤ 4095
    ¬ kIllegal { single 10 6 4086 1 with rsSrc := 4090 } ∧ inRange { single 10 6 4086 1 with rsSrc := 4090 } ∧
    ¬ inRange { single 10 7 4086 1 with rsSrc := 4090 } ∧ ¬ inRange (single 10 6 4087 1) ∧ inRange (single 10 0 4095 0) ∧
    MemoriesCanonical { idle with params := single 10 0 4095 0 } ∧
    (∀ j', 9 < j' → j' < 10 → 4095 + j' * 0 ≠ 4095 + 9 * 0) := by
  refine ⟨?_, ?_, ?_, ?_, ?_, idle_canonical _, fun j h h' => by omega⟩ <;> (try unfold kIllegal) <;> decide

/-- The clauses of RsSyndCommand at the bounds of T424: SRC + N + K = 4096 and 4097. -/
theorem test_witness_RsSyndCommand :
    let inRange := fun p : Params =>
      p.rsSrc.toNat + (p.rsN.toNat + p.rsK.toNat) ≤ 4096 ∧ p.rsDst.toNat + (p.rsK.toNat - 1) * p.rsStride.toNat ≤ 4095
    ¬ kIllegal { single 10 6 4086 1 with rsSrc := 4080 } ∧ inRange { single 10 6 4086 1 with rsSrc := 4080 } ∧
    ¬ inRange { single 10 7 4086 1 with rsSrc := 4080 } ∧ ¬ inRange (single 10 6 4087 1) ∧
    MemoriesCanonical { idle with params := single 10 6 4086 1 } := by
  refine ⟨?_, ?_, ?_, ?_, idle_canonical _⟩ <;> (try unfold kIllegal) <;> decide

/-- The clauses of InterleaveCommand and InterleavedIsPermutation: the layouts of T432, a group-2 block, and the longest codeword of
it. -/
theorem test_witness_InterleaveCommand_InterleavedIsPermutation :
    kIllegal (blocks 1 16 0 0) ∧ ¬ kIllegal (blocks 0 16 1 10) ∧ ¬ layoutLegal (blocks 0 16 1 10) ∧ ¬ layoutLegal (blocks 1 0 0 10) ∧
    ¬ layoutLegal (blocks 16 255 0 10) ∧ ¬ kIllegal (blocks 14 255 0 10) ∧ layoutLegal (blocks 14 255 0 10) ∧
    layoutLegal (blocks 1 3 1 2) ∧ 3 < blockLength (blocks 1 3 1 2) 1 ∧
    MemoriesCanonical { idle with params := blocks 1 3 1 2 } := by
  refine ⟨?_, ?_, ?_, ?_, ?_, ?_, ?_, ?_, ?_, idle_canonical _⟩ <;>
    simp only [kIllegal, layoutLegal, dataTotal, cwTotal, blockLength] <;> decide

/-- The coordinates 2 and W − 3 are legal; 1 and W − 2 are not. -/
theorem test_witness_LayoutCellByCell :
    geometryLegal 1 [2, 18] ∧ geometryLegal 40 [6, 174] ∧ ¬ geometryLegal 1 [1] ∧ ¬ geometryLegal 1 [19] ∧ ¬ geometryLegal 0 [] ∧
    ¬ geometryLegal 41 [] ∧ (20 : Nat) < symbolWidth 1 := by
  simp only [geometryLegal, symbolWidth]
  decide

theorem test_witness_InformationWords : (7 ≤ 7 ∧ 7 ≤ 40) ∧ (7 ≤ 40 ∧ 40 ≤ 40) ∧ (3 : Nat) < 4 ∧ (7 : Nat) < 8 := by decide

theorem test_witness_ZigzagOrder : 1 ≤ 1 ∧ 9 < (symbolWidth 1 - 1) / 2 ∧ 20 < symbolWidth 1 := by
  unfold symbolWidth
  decide

/-- The HELLO WORLD parameters pass every check of MATRIX_BUILD. -/
theorem hello_legal : buildLegal hello := by
  refine ⟨?_, ?_, ?_, ?_⟩
  · unfold kIllegal; decide
  · simp only [layoutLegal, dataTotal, cwTotal]; decide
  · simp only [geometryLegal, symbolWidth]; decide
  · decide +kernel

theorem test_witness_BuiltMatrixComplete_MatrixBuildCommand_EncodeAllCommand : buildLegal ({ idle with params := hello }).params :=
  hello_legal

/-- The clauses of BuildFaults at their bounds: T444's states, and an earlier check passing in each. -/
theorem test_witness_BuildFaults :
    kIllegal { hello with rsK := 31 } ∧ ¬ kIllegal hello ∧ ¬ layoutLegal { hello with ilvB1 := 0 } ∧ layoutLegal hello ∧
    (({ hello with version := 0 } : Params).version.toNat < 1 ∨ 40 < ({ hello with version := 0 } : Params).version.toNat) ∧
    (({ hello with version := 41 } : Params).version.toNat < 1 ∨ 40 < ({ hello with version := 41 } : Params).version.toNat) ∧
    (∃ x ∈ alignment { hello with alignCnt := 1, alignPos := Vector.replicate 7 19#8 }, x < 2 ∨ symbolWidth 1 - 3 < x) ∧
    (∃ x ∈ alignment { hello with alignCnt := 1, alignPos := Vector.replicate 7 1#8 }, x < 2 ∨ symbolWidth 1 - 3 < x) ∧
    geometryLegal 1 (alignment { hello with remBits := 1 }) ∧
    freeCount 1 (alignment { hello with remBits := 1 }) ≠ 8 * cwTotal { hello with remBits := 1 } + 1 := by
  refine ⟨?_, ?_, ?_, ?_, ?_, ?_, ?_, ?_, ?_, ?_⟩
  all_goals try simp only [kIllegal, layoutLegal, dataTotal, cwTotal, geometryLegal, symbolWidth]
  all_goals decide +kernel

theorem drawnGrid_square : drawnGrid.square 21 := by
  refine ⟨by simp [drawnGrid], fun row h => ?_⟩
  obtain ⟨r, -, rfl⟩ := List.mem_map.1 h
  simp

theorem drawnGrid_cell {r c : Nat} (hr : r < 21) (hc : c < 21) : drawnGrid.cell r c = drawnCell r c := by
  simp [Grid.cell, drawnGrid, hr, hc]

theorem drawn_canonical : MemoriesCanonical drawn :=
  ⟨Memory.wf_nil, Memory.wf_nil, Memory.wf_toMemory (by decide) _⟩

theorem drawn_width : drawn.mxWidth = 21 := by decide

/-- `CellConsistent` of a version 1 matrix without a mask, as a test. -/
def cellOk (r c : Nat) : Bool :=
  let b := drawnCell r c
  b.toNat < 16 && ((cellKind b = .fmt) = (formatIndex 21 r c ≠ none)) && (cellKind b ≠ .empty) &&
    (!(cellKind b = .func) || !cellRaw b) && (!(cellKind b = .data) || (cellDark b == cellRaw b)) &&
    (!(cellKind b = .fmt) || (!cellRaw b && !cellDark b))

theorem drawn_cells_ok : ∀ r < 21, ∀ c < 21, cellOk r c = true := by decide +kernel

theorem drawn_consistent : MatrixConsistent drawn := by
  refine ⟨fun h => absurd h (by decide), fun _ => ⟨by decide, by decide, by decide, fun _ => by decide, fun h => absurd h (by decide), ?_, ?_⟩⟩
  · intro x hx
    obtain ⟨r, c, hr, hc, rfl, -⟩ := Grid.mem_toMemory.1 hx
    rw [drawn_width]
    simp only [mxIndex, Config.mxDim]
    omega
  · rw [drawn_width]
    intro r hr c hc
    have hcell : drawn.mxCell r c = drawnCell r c := by
      show (drawnGrid.toMemory 21).readByte (mxIndex r c) = _
      rw [Grid.readByte_toMemory (by decide) drawnGrid_square (by simp only [Config.mxDim]; omega), drawnGrid_cell hr hc]
    rw [hcell]
    have h := drawn_cells_ok r hr c hc
    simp only [cellOk, Bool.and_eq_true, decide_eq_true_eq, Bool.or_eq_true, Bool.not_eq_true', decide_eq_false_iff_not, beq_iff_eq,
      eq_iff_iff] at h
    obtain ⟨⟨⟨⟨⟨h1, h2⟩, h3⟩, h4⟩, h5⟩, h6⟩ := h
    refine ⟨h1, h2, h3, fun hk => h4.resolve_left (not_not_intro hk), fun hk => ?_, fun hk => ?_⟩
    · rw [h5.resolve_left (not_not_intro hk)]
      simp [drawn, SymbolRegs.reset, MaskField.reset]
    · obtain ⟨ha, hb⟩ := h6.resolve_left (not_not_intro hk)
      exact ⟨ha, by rw [hb]; simp [drawn, SymbolRegs.reset, MaskField.reset]⟩

/-- The hypotheses of the mask statements: a consistent built matrix and the bounds of the mask id; and a state without a matrix. -/
theorem test_witness_mask_statements :
    MemoriesCanonical drawn ∧ MatrixConsistent drawn ∧ drawn.status.built = true ∧ idle.status.built = false ∧ (0 : Nat) < 8 ∧
    (7 : Nat) < 8 ∧ ∃ t, exec (.maskCommit 7) drawn = .next t :=
  ⟨drawn_canonical, drawn_consistent, by decide, by decide, by decide, by decide, _, rfl⟩

/-- The clauses of MaskCommitCommand and isCandidate: a DATA cell, an FMT cell, a FUNC cell, an offset outside the symbol. -/
theorem test_witness_MaskCommitCommand_CandidateScore :
    cellKind (drawnCell 20 20) = .data ∧ cellKind (drawnCell 8 0) = .fmt ∧ formatPosition 21 14 8 0 ∧
    cellKind (drawnCell 0 0) = .func ∧ ¬ (21 / 177 < 21 ∧ 21 % 177 < 21) := by
  unfold formatPosition
  decide +kernel

/-- A plane of width 7, and one of width 177. -/
theorem test_witness_penalty_statements (w : Nat) : squarePlane w (List.replicate w (List.replicate w true)) := by
  refine ⟨by simp, fun row h => ?_⟩
  rw [(List.mem_replicate.1 h).2, List.length_replicate]

theorem test_witness_penalty_bounds : (7 ≤ 7 ∧ 7 ≤ 177) ∧ (7 ≤ 177 ∧ 177 ≤ 177) ∧ (0 : Nat) < 1 ∧ (199 ≤ 242 ∧ 242 ≤ 242) ∧
    (243 ≤ 264 ∧ 264 ≤ 264) := by
  decide

/-- Two states that differ in the mask selection, the penalty registers and bits 7..4 of no cell. -/
theorem test_witness_ScoreDependsOnlyOn :
    let t := { drawn with pen := { PenaltyRegs.reset with penA := 5 }, symbol := { drawn.symbol with maskSel := { mask := 3, valid := true } } }
    drawn ≠ t ∧ drawn.symbol.mxVer = t.symbol.mxVer ∧ drawn.params.level = t.params.level ∧
    ∀ r < drawn.mxWidth, ∀ c < drawn.mxWidth, drawn.mxCell r c &&& 0x0F#8 = t.mxCell r c &&& 0x0F#8 :=
  ⟨fun h => absurd (congrArg (fun s : State => s.pen.penA) h) (by decide), rfl, rfl, fun _ _ _ _ => rfl⟩

theorem exec_interleave_ok {s : State} (h : firstFault [(s.params.badK, .badK), (!s.params.layoutOk, .badLayout)] = none) :
    exec .interleave s = .next s.interleaveWrites.complete := by
  show s.conclude (firstFault [(s.params.badK, .badK), (!s.params.layoutOk, .badLayout)]) _ = _
  rw [h]
  rfl

theorem exec_matrixBuild_ok {s : State} (h : firstFault s.params.buildChecks = none) (hm : s.params.mismatch = false) :
    exec .matrixBuild s = .next s.recordFreeCount.buildWrites.complete := by
  show s.concludeBuild _ = _
  unfold State.concludeBuild
  rw [h]
  simp [hm]

theorem exec_matrixBuild_fault {s : State} {c : FaultCode} (h : firstFault s.params.buildChecks = some c) :
    exec .matrixBuild s = .next (s.raiseFault c) := by
  show s.concludeBuild _ = _
  unfold State.concludeBuild
  rw [h]

theorem exec_maskAuto_ok {s : State} (h : s.status.built = true) : exec .maskAuto s = .next s.autoWrites.complete := by
  show s.conclude (firstFault [(!s.status.built, .notBuilt)]) _ = _
  rw [h]
  rfl

/-- The HELLO WORLD parameters: each of the three commands, accepted in turn, completes. -/
theorem test_witness_EncodeAllEqualsSequence_success :
    ∃ s₁ s₂ s₃ : State,
      exec .interleave ({ idle with params := hello }.accept 0x30#32) = .next s₁ ∧ s₁.status.done = true ∧
      exec .matrixBuild (s₁.accept 0x40#32) = .next s₂ ∧ s₂.status.done = true ∧
      exec .maskAuto (s₂.accept 0x52#32) = .next s₃ ∧ s₃.status.done = true :=
  have h₁ : firstFault [(hello.badK, .badK), (!hello.layoutOk, .badLayout)] = none := by decide
  have h₂ : firstFault hello.buildChecks = none := by decide
  ⟨_, _, _, exec_interleave_ok h₁, rfl, exec_matrixBuild_ok h₂ test_hello_count, rfl, exec_maskAuto_ok rfl, rfl⟩

/-- The fault cases: BAD_K in INTERLEAVE; BAD_VERSION in MATRIX_BUILD. -/
theorem test_witness_EncodeAllEqualsSequence_faults :
    idle.status.fault = false ∧ idle.status.fcode = 0#8 ∧
    (∃ s₁, exec .interleave (idle.accept 0x30#32) = .next s₁ ∧ s₁.status.done = false) ∧
    ∃ s₁ s₂ : State,
      exec .interleave ({ idle with params := { hello with version := 41 } }.accept 0x30#32) = .next s₁ ∧ s₁.status.done = true ∧
      exec .matrixBuild (s₁.accept 0x40#32) = .next s₂ ∧ s₂.status.done = false :=
  have h₁ : firstFault [(hello.badK, .badK), (!hello.layoutOk, .badLayout)] = none := by decide
  have h₂ : firstFault ({ hello with version := 41 } : Params).buildChecks = some .badVersion := by decide
  ⟨rfl, rfl, ⟨_, rfl, rfl⟩, _, _, exec_interleave_ok h₁, rfl, exec_matrixBuild_fault h₂, rfl⟩

/-- FaultWritesExactly and FaultPriority: an accepted word whose check fails, GF_LOG of 0, and one whose checks pass. -/
theorem test_witness_FaultWritesExactly_FaultPriority :
    let s := accepted 0x12#32
    s.seq = .exec 0x12#32 ∧ s.status.done = false ∧ s.status.fault = false ∧ s.status.fcode = 0#8 ∧ decode 0x12#32 = .ok .gfLog ∧
    (∃ t, s.sequencerTurn = .next t ∧ t.status.done = false ∧ t.status.fault = true ∧ t.status.fcode = 9#8) ∧
    (∃ t, (accepted 0x00#32).sequencerTurn = .next t ∧ t.status.fault = false) ∧
    (∃ t, (accepted 0x13#32).sequencerTurn = .next t ∧ t.status.fcode = 1#8) :=
  ⟨by decide, by decide, by decide, by decide, by decide, ⟨_, rfl, by decide, by decide, by decide⟩, ⟨_, rfl, by decide⟩,
    ⟨_, rfl, by decide⟩⟩

/-- CommandWriteSets: a command that changes a register of its row. -/
theorem test_witness_CommandWriteSets :
    ∃ t, exec .gfExp idle = .next t ∧ t.gfR ≠ idle.gfR :=
  ⟨_, rfl, by decide +kernel⟩

/-- The six kinds of access of R76 at the bounds of their ranges, and neighbours that are none. -/
theorem test_witness_AddrErrRule :
    refusedByR76 (.read32 0x0180#16) ∧ refusedByR76 (.read32 0x0FFC#16) ∧ refusedByR76 (.read8 0x3000#16) ∧
    refusedByR76 (.read8 0x7FFF#16) ∧ refusedByR76 (.read8 0x017F#16) ∧ refusedByR76 (.write32 0x1002#16 0#32) ∧
    refusedByR76 (.write32 0x0000#16 0#32) ∧ refusedByR76 (.write32 0x0040#16 0#32) ∧ refusedByR76 (.write32 0x0070#16 0#32) ∧
    refusedByR76 (.write32 0x00A8#16 0#32) ∧ refusedByR76 (.write32 0x00DC#16 0#32) ∧ refusedByR76 (.write32 0x0100#16 0#32) ∧
    refusedByR76 (.write8 0x8000#16 0#8) ∧ ¬ refusedByR76 (.write32 0x0068#16 0#32) ∧ ¬ refusedByR76 (.write32 0x00AC#16 0#32) ∧
    ¬ refusedByR76 (.write32 0x00E0#16 0#32) ∧ ¬ refusedByR76 (.write8 0x1000#16 0#8) ∧ ¬ refusedByR76 (.read8 0x8000#16) ∧
    ¬ refusedByR76 (.write32 0x0008#16 0#32) := by
  and_intros <;> (try unfold refusedByR76 readOnlyOffset) <;> decide

theorem test_witness_AddrErrRule_step :
    let s := { idle with events := [.host (.read8 0#16)] }
    s.status.addrErr = false ∧ ∃ t, step s = .next t ∧ t.status.addrErr = true :=
  ⟨by decide, _, rfl, by decide⟩

/-- A busy state; accesses R80 performs and refuses; a CTRL write without SRST. -/
theorem test_witness_BusyRefusal :
    (accepted 0#32).seq ≠ .idle ∧ State.reset.seq ≠ .idle ∧
    ¬ refusedByR76 (.write32 0x000C#16 0#32) ∧ ¬ performedWhileBusy (.write32 0x000C#16 0#32) ∧
    ¬ refusedByR76 (.read32 0x0000#16) ∧ performedWhileBusy (.read32 0x0000#16) ∧
    ¬ refusedByR76 (.write32 0x0004#16 3#32) ∧ performedWhileBusy (.write32 0x0004#16 3#32) ∧ (3#32).getLsbD 31 = false ∧
    ¬ refusedByR76 (.write32 0x0008#16 2#32) ∧ performedWhileBusy (.write32 0x0008#16 2#32) := by
  and_intros <;> (try unfold refusedByR76 readOnlyOffset) <;> (try unfold performedWhileBusy) <;> decide

theorem test_witness_BusyRefusal_step :
    let s := { accepted 0#32 with events := [.host (.write32 0x000C#16 0#32)] }
    s.status.busyErr = false ∧ ∃ t, step s = .next t ∧ t.status.busyErr = true :=
  ⟨by decide, _, rfl, by decide⟩

/-- The bounds of LittleEndian: the ends of DBUF, CBUF and MX. -/
theorem test_witness_LittleEndian :
    idle.seq = .idle ∧ MemoriesCanonical { idle with params := Params.reset } ∧ inMemories 0x1000 ∧ inMemories 0x2FFC ∧ inMemories 0x8000 ∧
    inMemories 0xFFFC ∧ 4095 < 4096 ∧ (31328 < 31329 ∧ 31328 < 32768) ∧ (¬ 31329 < 31329 ∧ 32767 < 32768) ∧ ¬ inMemories 0x0FFF ∧ ¬ inMemories 0x3000 ∧ ¬ inMemories 0x7FFF ∧ 0xFFFC < 0x10000 ∧ 0xFFFC % 4 = 0 ∧
    0x2FFC < 0x3000 := by
  refine ⟨by decide, idle_canonical _, ?_⟩
  simp only [inMemories]
  decide

theorem test_witness_ReadsHaveNoSideEffect :
    (Access.read32 0x0010#16).isWrite = false ∧ ¬ refusedByR76 (.read32 0x0010#16) ∧ (Access.read8 0xFFFF#16).isWrite = false ∧
    ¬ refusedByR76 (.read8 0xFFFF#16) ∧ idle.seq = .idle := by
  and_intros <;> (try unfold refusedByR76 readOnlyOffset) <;> decide

theorem test_witness_ParameterReadback :
    idle.seq = .idle ∧ (0x010, 6) ∈ parameterFields ∧ (0x064, 8) ∈ parameterFields ∧ parameterFields.length = 21 ∧
    (0x00C, 0) ∈ registerValues idle ∧ (0x17C, 0) ∈ registerValues idle ∧ (0x3#32).getLsbD 31 = false ∧ (0x7FFFFFFF#32).getLsbD 31 = false ∧
    0x068 ∈ reservedOffsets ∧ 0x0FC ∈ reservedOffsets := by
  decide

/-- The statements about reads leave out no word of the register region and give none two values: the registers, CTRL, STATUS, the two
live totals and the reserved offsets are the 96 words of R71, once each. -/
theorem test_registers_covered :
    let offs := (registerValues idle).map Prod.fst ++ [0x004, 0x008, 0x080, 0x084] ++ reservedOffsets
    offs.length = 96 ∧ ∀ k < 96, 4 * k ∈ offs := by
  decide +kernel

/-- R35 and R42: MASK_SEL and PEN_MASK hold VALID in bit 8; R71 places the memories. -/
theorem test_host_reads :
    let s := { idle with
      symbol := { SymbolRegs.reset with maskSel := { mask := 5, valid := true } }
      pen := { PenaltyRegs.reset with penA := 1, penB := 2, penMask := { mask := 3, valid := true } }
      dbuf := [(4, 7#8)], cbuf := [(4, 8#8)], mx := [(4, 9#8)] }
    [Access.read32 0x074, .read32 0x090, .read32 0x094, .read32 0x0A4, .read8 0x1004, .read8 0x2004, .read8 0x8004].map
        (fun a => (s.hostAccess a).reply) =
      [0x105#32, 1#32, 2#32, 0x103#32, 7#32, 8#32, 9#32].map fun v => some (.data v) := by
  decide

theorem test_witness_CommandAcceptance_LiveTotals : idle.seq = .idle := by decide

theorem test_witness_SoftReset : (0x80000003#32).getLsbD 31 = true := by decide

theorem test_witness_ResetValues : (0x17C < 0x180 ∧ 0x17C % 4 = 0) ∧ inMemories 0xFFFF := by
  simp only [inMemories]
  decide

/-- InterruptOutput: a completion that raises the interrupt; a CTRL write that raises it; a consistent state in INIT. -/
theorem test_witness_InterruptOutput :
    let s := { accepted 0#32 with ctrl := { ie := true, fie := false } }
    let u := { idle with status := { Status.reset with done := true }, events := [.host (.write32 0x0004#16 1#32)] }
    StatusConsistent State.reset ∧ State.reset.seq = .init ∧
    (s.irq = false ∧ ∃ t, step s = .next t ∧ t.irq = true) ∧ (u.irq = false ∧ ∃ t, step u = .next t ∧ t.irq = true) := by
  refine ⟨?_, by decide, ⟨by decide, _, rfl, by decide⟩, ⟨by decide, _, rfl, by decide⟩⟩
  exact ⟨fun _ => by decide, fun h => absurd h (by decide), fun _ => by decide, fun _ => by decide, fun w h => by cases h⟩

/-- The hypotheses of the four invariants: a state with a matrix, a state that executes a word, a state with a generator, and a step of
each. -/
theorem test_witness_invariants :
    (MemoriesCanonical drawn ∧ BuffersInRange drawn) ∧ (MemoriesCanonical drawn ∧ MatrixConsistent drawn) ∧
    StatusConsistent (accepted 0x12#32) ∧ GeneratorConsistent idle ∧
    (∃ t, step drawn = .next t) ∧ (∃ t, step (accepted 0x12#32) = .next t) := by
  refine ⟨⟨drawn_canonical, ?_⟩, ⟨drawn_canonical, drawn_consistent⟩, ?_, ?_, ⟨_, rfl⟩, ⟨_, rfl⟩⟩
  · exact ⟨fun x hx => by simp [drawn, idle, State.reset] at hx, fun x hx => by simp [drawn, idle, State.reset] at hx⟩
  · exact ⟨fun _ => by decide, fun h => absurd h (by decide), fun _ => by decide, fun _ => by decide, fun w h => by
      simpa [accepted, State.accept] using h⟩
  · exact ⟨fun _ => by decide, fun h => absurd h (by decide)⟩

/-- GeneratorStaysConsistent, the clause with GPV = 1: GPOLY holds g_1 = x ⊕ 1 (R150). -/
theorem test_witness_GeneratorStaysConsistent :
    let s := { idle with gen := { gpoly := (Vector.replicate 32 0#8).set 0 1#8 |>.set 1 1#8, gpolyK := 1#8 }, status := { Status.reset with gpv := true } }
    GeneratorConsistent s ∧ s.status.gpv = true ∧ ∃ t, step s = .next t :=
  ⟨⟨fun h => absurd h (by decide), fun _ => ⟨by decide, by decide, by decide +kernel⟩⟩, rfl, _, rfl⟩

/-- The clauses of MatrixBuildCommand: the last free module, a layout cell that is not EMPTY, an offset outside the symbol. -/
theorem test_witness_MatrixBuildCommand_clauses :
    207 < freeCount 1 (alignment hello) ∧ (freeModuleOrder 1 (alignment hello)).getD 207 (0, 0) = (12, 0) ∧
    layoutCell 1 (alignment hello) 13 8 ≠ 0#8 ∧ ¬ (21 / 177 < symbolWidth 1 ∧ 21 % 177 < symbolWidth 1) := by
  unfold symbolWidth
  decide +kernel

end Sys2Proof.Tests
end

section

/-! What a command, a host access and a step can do, each said once, and the form in which a property is shown to hold at every
step. -/

namespace Sys2Proof.Machine

open Sys2Proof.Terms

/-! ### Commands: checks, writes, and the three ways to end -/

/-- The checks of a command, in the order of R281 (for a build: those before the count check). -/
def checksOf (i : Instr) (s : State) : List (Bool × FaultCode) :=
  match i with
  | .nop | .gfMul | .gfExp => []
  | .gfLog => [(s.params.gfA = 0#8, .gfLogZero)]
  | .genPoly => [(s.params.badK, .badK)]
  | .rsBlock => [(s.params.badK, .badK), (s.params.badRange s.params.n, .badRange)]
  | .rsSynd => [(s.params.badK, .badK), (s.params.badRange (s.params.n + s.params.k), .badRange)]
  | .interleave => [(s.params.badK, .badK), (!s.params.layoutOk, .badLayout)]
  | .matrixBuild | .encodeAll => s.params.buildChecks
  | .maskScore _ | .maskCommit _ | .maskAuto => [(!s.status.built, .notBuilt)]

/-- The writes of a successful command, before its completion. -/
def State.writes (s : State) (i : Instr) : State :=
  match i with
  | .nop => s
  | .gfMul => { s with gfR := gfMul s.params.gfA s.params.gfB }
  | .gfExp => { s with gfR := gfExp s.params.gfA.toNat }
  | .gfLog => { s with gfR := BitVec.ofNat 8 (gfLog s.params.gfA) }
  | .genPoly => s.setGenerator s.params.k (genPoly s.params.k)
  | .rsBlock => s.rsBlockWrites
  | .rsSynd => s.rsSyndWrites
  | .interleave => s.interleaveWrites
  | .matrixBuild => s.recordFreeCount.buildWrites
  | .maskScore m => s.scoreWrites (BitVec.ofNat 3 m)
  | .maskCommit m => s.commitWrites (BitVec.ofNat 3 m)
  | .maskAuto => s.autoWrites
  | .encodeAll => s.interleaveWrites.recordFreeCount.buildWrites.autoWrites

/-- Every check of a command passes (the count check apart). -/
def ChecksPass (i : Instr) (s : State) : Prop := ∀ x ∈ checksOf i s, x.1 = false

theorem exec_eq_conclude {i : Instr} (hi : ¬ builds i) (s : State) :
    exec i s = s.conclude (firstFault (checksOf i s)) (s.writes i) := by
  cases i
  case matrixBuild => exact absurd (.inl rfl) hi
  case encodeAll => exact absurd (.inr rfl) hi
  all_goals rfl

theorem exec_eq_concludeBuild {i : Instr} (hi : builds i) (s : State) : exec i s = s.concludeBuild (s.writes i) := by
  rcases hi with rfl | rfl <;> rfl

theorem checksOf_eq_buildChecks {i : Instr} (hi : builds i) (s : State) : checksOf i s = s.params.buildChecks := by
  rcases hi with rfl | rfl <;> rfl

/-- Everything a command can do: a fault that writes nothing else, LAYOUT_MISMATCH with the count recorded, or success. -/
theorem exec_cases {i : Instr} {s t : State} (h : exec i s = .next t) :
    (∃ c, firstFault (checksOf i s) = some c ∧ t = s.raiseFault c) ∨
    (builds i ∧ ChecksPass i s ∧ s.params.mismatch = true ∧ t = s.recordFreeCount.raiseFault .layoutMismatch) ∨
    (ChecksPass i s ∧ (builds i → s.params.mismatch = false) ∧ t = (s.writes i).complete) := by
  by_cases hi : builds i
  · rw [exec_eq_concludeBuild hi] at h
    simp only [ChecksPass, checksOf_eq_buildChecks hi, ← firstFault_eq_none]
    rcases State.concludeBuild_cases h with hfault | ⟨hc, hm, rfl⟩ | ⟨hc, hm, rfl⟩
    · exact .inl hfault
    · exact .inr (.inl ⟨hi, hc, hm, rfl⟩)
    · exact .inr (.inr ⟨hc, fun _ => hm, rfl⟩)
  · rw [exec_eq_conclude hi] at h
    rcases State.conclude_cases h with hfault | ⟨hc, rfl⟩
    · exact .inl hfault
    · exact .inr (.inr ⟨firstFault_eq_none.1 hc, fun hb => absurd hb hi, rfl⟩)

/-! ### Fields of the writes that Laws/State.lean leaves out -/

@[simp] theorem State.rsBlockWrites_gen (s : State) :
    s.rsBlockWrites.gen = (s.setGenerator s.params.k (genPoly s.params.k)).gen := rfl

@[simp] theorem State.interleaveWrites_gen (s : State) :
    s.interleaveWrites.gen = (s.setGenerator s.params.k (genPoly s.params.k)).gen := rfl

/-- The mask MASK_AUTO selects (spec/44_mask.md R230). -/
def State.bestMask (s : State) : BitVec 3 := BitVec.ofNat 3 (selectMask (s.allScores.map Score.total))

@[simp] theorem State.autoWrites_mx (s : State) :
    s.autoWrites.mx = commitMatrix (fmtWord s.params.level s.bestMask) s.bestMask s.mxWidth s.mx := by
  simp only [State.autoWrites, State.commitWrites, State.bestMask, State.mxWidth]

@[simp] theorem State.autoWrites_symbol (s : State) :
    s.autoWrites.symbol =
      { s.symbol with
        maskSel := { mask := s.bestMask, valid := true }
        fmtBits := fmtWord s.params.level s.bestMask } := by
  simp only [State.autoWrites, State.commitWrites, State.bestMask]

@[simp] theorem State.commitWrites_symbol (s : State) (m : BitVec 3) :
    (s.commitWrites m).symbol =
      { s.symbol with maskSel := { mask := m, valid := true }, fmtBits := fmtWord s.params.level m } := by
  simp only [State.commitWrites]

@[simp] theorem State.buildWrites_symbol (s : State) :
    s.buildWrites.symbol =
      { s.symbol with
        mxVer := s.params.version
        maskSel := MaskField.reset
        fmtBits := 0#15
        verBits := verBitsOf s.params.v } := by
  simp only [State.buildWrites]

@[simp] theorem State.rsSyndWrites_cbuf (s : State) :
    s.rsSyndWrites.cbuf = s.cbuf.writeStrided s.params.dst s.params.stride
      (syndromes (s.dbuf.readBytes s.params.src (s.params.n + s.params.k)) s.params.k) := by
  simp only [State.rsSyndWrites]

/-! ### What the checks say that pass -/

theorem Params.badK_eq_false {p : Params} : p.badK = false ↔ 1 ≤ p.k ∧ p.k ≤ Config.kMax := by
  simp [Params.badK, Nat.one_le_iff_ne_zero]

theorem Params.layoutOk_eq_true {p : Params} :
    p.layoutOk = true ↔ 1 ≤ p.b1 ∧ 1 ≤ p.d1 ∧ p.dataTotal ≤ Config.dbufSize ∧ p.cwTotal ≤ Config.cbufSize := by
  simp [Params.layoutOk, and_assoc]

theorem Params.badVersion_eq_false {p : Params} : p.badVersion = false ↔ Config.vMin ≤ p.v ∧ p.v ≤ Config.vMax := by
  simp [Params.badVersion]

/-- Whenever a command that uses K passes its checks, K is legal. -/
theorem badK_of_checksPass {i : Instr} {s : State} (h : ChecksPass i s)
    (hi : i = .genPoly ∨ i = .rsBlock ∨ i = .rsSynd ∨ i = .interleave ∨ builds i) : s.params.badK = false := by
  refine h (s.params.badK, .badK) ?_
  rcases hi with rfl | rfl | rfl | rfl | rfl | rfl <;> simp [checksOf, Params.buildChecks]

theorem badVersion_of_checksPass {i : Instr} {s : State} (h : ChecksPass i s) (hi : builds i) :
    s.params.badVersion = false := by
  refine h (s.params.badVersion, .badVersion) ?_
  rw [checksOf_eq_buildChecks hi]
  simp [Params.buildChecks]

theorem layoutOk_of_checksPass {i : Instr} {s : State} (h : ChecksPass i s) (hi : usesLayout i) :
    s.params.layoutOk = true := by
  have hfail := h (!s.params.layoutOk, .badLayout) (by
    rcases hi with rfl | rfl | rfl <;> simp [checksOf, Params.buildChecks])
  simpa using hfail

theorem built_of_checksPass {i : Instr} {s : State} (h : ChecksPass i s) (hi : isMaskCommand i) :
    s.status.built = true := by
  have hfail := h (!s.status.built, .notBuilt) (by
    rcases hi with ⟨m, rfl⟩ | ⟨m, rfl⟩ | rfl <;> simp [checksOf])
  simpa using hfail

/-! ### Host accesses -/

/-- The state after a host access, its response apart: what it can be, by the location the access reaches. -/
inductive HostEffect (s : State) : State → Prop where
  /-- A read, or a write to a reserved offset. -/
  | none : HostEffect s s
  | addrErr : HostEffect s s.setAddrErr
  | busyErr (hb : s.seq ≠ .idle) : HostEffect s s.setBusyErr
  | ctrl (c : Ctrl) : HostEffect s { s with ctrl := c }
  | reset : HostEffect s s.startReset
  | status (v : Word) : HostEffect s { s with status := s.status.writeOneToClear v }
  | cmd (w : Word) (hb : s.seq = .idle) : HostEffect s (s.accept w)
  | params (p : Params) (hb : s.seq = .idle) : HostEffect s { s with params := p }
  | dbuf8 (a : Nat) (v : Byte) (ha : a < Config.dbufSize) (hb : s.seq = .idle) :
      HostEffect s { s with dbuf := s.dbuf.writeByte a v }
  | dbuf32 (a : Nat) (v : Word) (ha : a + 3 < Config.dbufSize) (hb : s.seq = .idle) :
      HostEffect s { s with dbuf := s.dbuf.writeWord a v }
  | cbuf8 (a : Nat) (v : Byte) (ha : a < Config.cbufSize) (hb : s.seq = .idle) :
      HostEffect s { s with cbuf := s.cbuf.writeByte a v }
  | cbuf32 (a : Nat) (v : Word) (ha : a + 3 < Config.cbufSize) (hb : s.seq = .idle) :
      HostEffect s { s with cbuf := s.cbuf.writeWord a v }

theorem State.busy_eq_false {s : State} : s.busy = false ↔ s.seq = .idle := by
  simp [State.busy]

theorem State.busy_eq_true {s : State} : s.busy = true ↔ s.seq ≠ .idle := by
  simp [State.busy]

/-- Where an access to DBUF lands. -/
theorem placeOf_eq_dbuf {off : Offset} {a : Nat} (h : placeOf off = .dbuf a) : off.toNat = 0x1000 + a ∧ a < Config.dbufSize := by
  simp only [placeOf] at h
  split_ifs at h
  have ha := Place.dbuf.inj h
  simp only [Config.dbufSize]
  omega

/-- Where an access to CBUF lands. -/
theorem placeOf_eq_cbuf {off : Offset} {a : Nat} (h : placeOf off = .cbuf a) : off.toNat = 0x2000 + a ∧ a < Config.cbufSize := by
  simp only [placeOf] at h
  split_ifs at h
  have ha := Place.cbuf.inj h
  simp only [Config.cbufSize]
  omega

theorem aligned_of_misaligned_eq_false {off : Offset} {v : Word} (h : (Access.write32 off v).misaligned = false) :
    off.toNat % 4 = 0 := by
  by_contra hne
  simp [Access.misaligned, Access.isByte, Access.offset, hne] at h

/-- Only CTRL and STATUS take a write while BUSY = 1. -/
theorem seq_idle_of_write {s : State} {off : Offset} {v : Word} (hb : s.busy = false ∨ (Access.write32 off v).allowedBusy = true)
    (hid : placeOf off ≠ .reg .id) (hctrl : placeOf off ≠ .reg .ctrl) (hstatus : placeOf off ≠ .reg .status) : s.seq = .idle := by
  rcases hb with hb | hb
  · exact State.busy_eq_false.1 hb
  · have hoff : (Access.write32 off v).offset = off := rfl
    unfold Access.allowedBusy at hb
    rw [hoff] at hb
    split at hb <;> contradiction

/-- A 1-byte write that R76 does not refuse goes to one of the buffers. -/
theorem HostEffect.of_write8 {s : State} {off : Offset} {v : Byte} (h : (Access.write8 off v).addrRefused = false)
    (hb : s.busy = false ∨ (Access.write8 off v).allowedBusy = true) : HostEffect s (s.writePlace8 (placeOf off) v) := by
  simp only [Access.addrRefused, Access.allowedBusy, Access.offset] at h hb
  rcases hp : placeOf off with r | _ | a | a | j <;> simp only [hp, Access.isByte, Access.isWrite] at h hb
  case dbuf => exact .dbuf8 a v (placeOf_eq_dbuf hp).2 (State.busy_eq_false.1 (by simpa using hb))
  case cbuf => exact .cbuf8 a v (placeOf_eq_cbuf hp).2 (State.busy_eq_false.1 (by simpa using hb))
  all_goals simp at h

theorem HostEffect.of_writeReg {s : State} {r : Reg} (v : Word) (hr : r ≠ .ctrl) (hr' : r ≠ .status) (hb : s.seq = .idle) :
    HostEffect s (s.writeReg r v) := by
  cases r
  case ctrl => exact absurd rfl hr
  case status => exact absurd rfl hr'
  case cmd => exact .cmd v hb
  all_goals exact .params _ hb

theorem HostEffect.of_writeCtrl (s : State) (v : Word) : HostEffect s (s.writeCtrl v) := by
  unfold State.writeCtrl
  split
  · exact .reset
  · exact .ctrl _

/-- A 4-byte write that R76 does not refuse. -/
theorem HostEffect.of_write32 {s : State} {off : Offset} {v : Word} (h : (Access.write32 off v).addrRefused = false)
    (hb : s.busy = false ∨ (Access.write32 off v).allowedBusy = true) : HostEffect s (s.writePlace32 (placeOf off) v) := by
  have hidle := seq_idle_of_write hb
  have hoff : (Access.write32 off v).offset = off := rfl
  simp only [Access.addrRefused, hoff] at h
  rcases hp : placeOf off with r | _ | a | a | j <;> simp only [hp, Access.isByte, Access.isWrite] at h hidle
  case reg =>
    by_cases hctrl : r = .ctrl
    · exact hctrl ▸ .of_writeCtrl s v
    by_cases hstatus : r = .status
    · exact hstatus ▸ .status v
    have hid : r ≠ .id := by rintro rfl; simp [Reg.readOnly] at h
    exact .of_writeReg v hctrl hstatus (hidle (by simpa) (by simpa) (by simpa))
  case dbuf =>
    obtain ⟨hoff, ha⟩ := placeOf_eq_dbuf hp
    have halign := aligned_of_misaligned_eq_false (by simpa using h)
    exact .dbuf32 a v (by simp only [Config.dbufSize] at *; omega) (hidle (by simp) (by simp) (by simp))
  case cbuf =>
    obtain ⟨hoff, ha⟩ := placeOf_eq_cbuf hp
    have halign := aligned_of_misaligned_eq_false (by simpa using h)
    exact .cbuf32 a v (by simp only [Config.cbufSize] at *; omega) (hidle (by simp) (by simp) (by simp))
  all_goals simp at h

/-- Everything a host access can do: one of the effects, and the response. -/
theorem State.hostAccess_effect (s : State) (a : Access) :
    ∃ u r, HostEffect s u ∧ s.hostAccess a = { u with reply := some r } := by
  rcases s.hostAccess_cases a with ⟨-, h⟩ | ⟨-, hb, -, h⟩ | ⟨ha, hb, h⟩
  · exact ⟨_, _, .addrErr, h⟩
  · exact ⟨_, _, .busyErr (State.busy_eq_true.1 hb), h⟩
  · rw [h]
    cases a with
    | read8 off => exact ⟨_, _, .none, rfl⟩
    | read32 off => exact ⟨_, _, .none, rfl⟩
    | write8 off v => exact ⟨_, _, .of_write8 ha hb, rfl⟩
    | write32 off v => exact ⟨_, _, .of_write32 ha hb, rfl⟩

/-- The one spec lemma of a write to STATUS (spec/10_state.md R24). -/
theorem Status.writeOneToClear_eq (st : Status) (v : Word) :
    st.writeOneToClear v =
      { st with
        done := st.done && !v.getLsbD 1
        fault := st.fault && !v.getLsbD 2
        fcode := if v.getLsbD 2 then 0#8 else st.fcode
        busyErr := st.busyErr && !v.getLsbD 3
        addrErr := st.addrErr && !v.getLsbD 4 } := by
  unfold Status.writeOneToClear Status.ackFault
  generalize v.getLsbD 2 = ack
  cases ack <;> simp

/-! ### The step -/

/-- What makes a property of the state an invariant: each elementary change of the state keeps it. -/
structure StepKeeps (I : State → Prop) : Prop where
  /-- The model's own fields do not enter. -/
  events : ∀ s es, I s → I { s with events := es }
  reply : ∀ s r, I s → I { s with reply := r }
  host : ∀ s u, HostEffect s u → I s → I u
  /-- The reset initialisation ends. -/
  initEnds : ∀ s, s.seq = .init → I s → I { s with seq := .idle }
  fault : ∀ s c, I s → I (s.raiseFault c)
  count : ∀ s, I s → I s.recordFreeCount
  success : ∀ s i, ChecksPass i s → I s → I (s.writes i).complete

theorem StepKeeps.sequencerTurn {I : State → Prop} (hI : StepKeeps I) {s t : State} (hs : I s) (h : s.sequencerTurn = .next t) :
    I t := by
  rcases s.sequencerTurn_cases with ⟨hq, he⟩ | ⟨-, he⟩ | ⟨w, i, -, -, he⟩ | ⟨w, e, -, -, he⟩ <;> rw [he] at h
  · cases h; exact hI.initEnds s hq hs
  · cases h; exact hs
  · rcases exec_cases h with ⟨c, -, rfl⟩ | ⟨-, -, -, rfl⟩ | ⟨hc, -, rfl⟩
    · exact hI.fault s c hs
    · exact hI.fault _ _ (hI.count s hs)
    · exact hI.success s i hc hs
  · cases h; exact hI.fault s _ hs

theorem StepKeeps.step {I : State → Prop} (hI : StepKeeps I) {s t : State} (hs : I s) (h : step s = .next t) : I t := by
  rcases step_cases s with ⟨-, he⟩ | ⟨es, -, he⟩ | ⟨a, es, -, he⟩ | ⟨es, -, he⟩ <;> rw [he] at h
  · exact hI.sequencerTurn hs h
  · exact hI.sequencerTurn (hI.events s es hs) h
  · obtain ⟨u, r, hu, he⟩ := State.hostAccess_effect { s with events := es } a
    rw [he] at h
    cases h
    exact hI.reply u _ (hI.host _ u hu (hI.events s es hs))
  · cases h
    exact hI.host _ _ .reset (hI.events s es hs)

end Sys2Proof.Machine
end

section

/-! STATUS stays consistent. -/

namespace Sys2Proof.Machine

/-- FCODE is 0 without a fault and one of the nine codes with one (spec/60_exceptions.md R271): the part of StatusConsistent that a
running command's end must keep. -/
def Status.codeOk (st : Status) : Prop :=
  (st.fault = false → st.fcode = 0#8) ∧ (st.fault = true → 1 ≤ st.fcode.toNat ∧ st.fcode.toNat ≤ 9)

theorem Status.codeOk_writeOneToClear {st : Status} (h : st.codeOk) (v : Word) : (st.writeOneToClear v).codeOk := by
  rw [Status.writeOneToClear_eq]
  generalize v.getLsbD 2 = ack
  cases ack with
  | false => simpa [Status.codeOk] using h
  | true => simp [Status.codeOk]

theorem State.codeOk_raiseFault {s : State} (h : s.status.codeOk) (c : FaultCode) : (s.raiseFault c).status.codeOk := by
  refine ⟨fun hf => by simp at hf, fun _ => ?_⟩
  simp only [State.raiseFault_status]
  split
  · exact c.code_range
  · next hne =>
    cases hf : s.status.fault with
    | false => exact absurd (h.1 hf) hne
    | true => exact h.2 hf

/-- A successful command writes neither FAULT nor FCODE. -/
theorem State.codeOk_writes {s : State} (h : s.status.codeOk) (i : Instr) : (s.writes i).complete.status.codeOk := by
  cases i <;> simpa [State.writes, Status.codeOk] using h

end Sys2Proof.Machine

namespace Sys2Proof.Safety

open Sys2Proof.Machine

/-- When SEQ = IDLE, only FAULT and FCODE are constrained. -/
theorem StatusConsistent.of_idle {s : State} (hq : s.seq = .idle) (h : s.status.codeOk) : StatusConsistent s :=
  ⟨h.1, h.2, by simp [hq], by simp [hq], by simp [hq]⟩

theorem StatusConsistent.codeOk {s : State} (h : StatusConsistent s) : s.status.codeOk := ⟨h.1, h.2.1⟩

theorem StatusConsistent.host {s u : State} (hs : StatusConsistent s) (hu : HostEffect s u) : StatusConsistent u := by
  have hcode := hs.codeOk
  obtain ⟨hclear, hrange, hdone, hinit, hcmd⟩ := hs
  cases hu with
  | status v =>
    have hcode' := Status.codeOk_writeOneToClear hcode v
    refine ⟨hcode'.1, hcode'.2, fun h => ?_, fun h => ?_, hcmd⟩
    · simp [Status.writeOneToClear_eq, hdone h]
    · simp [Status.writeOneToClear_eq, hinit h]
  | cmd w hb => exact ⟨hclear, hrange, fun _ => rfl, fun h => by simp at h, fun w' h => by simpa using h⟩
  | reset => simp [StatusConsistent, State.reset, Status.reset]
  | _ => exact ⟨hclear, hrange, hdone, hinit, hcmd⟩

theorem statusConsistent_stepKeeps : StepKeeps StatusConsistent where
  events _ _ h := h
  reply _ _ h := h
  host _ _ hu h := h.host hu
  initEnds _ _ h := .of_idle rfl h.codeOk
  fault _ c h := .of_idle rfl (State.codeOk_raiseFault h.codeOk c)
  count s h := by simpa [StatusConsistent] using h
  success _ i _ h := .of_idle rfl (State.codeOk_writes h.codeOk i)

/-- Settles O57: every elementary change of the state keeps STATUS consistent. -/
theorem statusStaysConsistent : Obligations.StatusStaysConsistent :=
  fun _ _ hs h => statusConsistent_stepKeeps.step hs h

end Sys2Proof.Safety
end

section

/-! GPV, GPOLY_K and GPOLY stay consistent. -/

namespace Sys2Proof.Machine

open Sys2Proof.Terms

/-! ### The generator polynomial -/

theorem length_mulLinear (g : List Byte) (a : Byte) : (mulLinear g a).length = g.length + 1 := by
  simp [mulLinear]

theorem genPoly_succ (k : Nat) : genPoly (k + 1) = mulLinear (genPoly k) (gfExp k) := by
  simp [genPoly, List.range_succ]

@[simp] theorem length_genPoly (k : Nat) : (genPoly k).length = k + 1 := by
  induction k with
  | zero => rfl
  | succ k ih => rw [genPoly_succ, length_mulLinear, ih]

/-- The generator polynomial has no coefficient above x^k. -/
theorem genPoly_getD_of_lt {k i : Nat} (h : k < i) : (genPoly k).getD i 0#8 = 0#8 :=
  List.getD_eq_default _ _ (by rw [length_genPoly]; exact h)

theorem Params.k_ofNat (p : Params) : BitVec.ofNat 8 p.k = p.rsK := by
  simp [Params.k]

end Sys2Proof.Machine

namespace Sys2Proof.Safety

open Sys2Proof.Machine

/-- The generator registers alone matter. -/
theorem GeneratorConsistent.congr {s t : State} (h : GeneratorConsistent s) (hgpv : t.status.gpv = s.status.gpv)
    (hgen : t.gen = s.gen) : GeneratorConsistent t := by
  unfold GeneratorConsistent
  rwa [hgpv, hgen]

theorem GeneratorConsistent.setGenerator {s : State} (hk : s.params.badK = false) :
    GeneratorConsistent (s.setGenerator s.params.k (genPoly s.params.k)) := by
  refine ⟨fun h => by simp at h, fun _ => ?_⟩
  obtain ⟨h1, h30⟩ := Params.badK_eq_false.1 hk
  have hK : s.params.rsK.toNat = s.params.k := rfl
  simp only [State.setGenerator_gen, Params.k_ofNat, hK]
  refine ⟨h1, h30, fun i => ?_⟩
  simp only [Fin.getElem_fin, Vector.getElem_ofFn]
  split
  · rfl
  · exact genPoly_getD_of_lt (by omega)

/-- A successful command leaves the generator registers alone, or sets them for a legal K. -/
theorem GeneratorConsistent.success {s : State} {i : Instr} (hc : ChecksPass i s) (h : GeneratorConsistent s) :
    GeneratorConsistent (s.writes i).complete := by
  have hk := badK_of_checksPass hc
  cases i
  case genPoly => exact .setGenerator (hk (by simp))
  case rsBlock => exact (GeneratorConsistent.setGenerator (hk (by simp))).congr rfl rfl
  case interleave => exact (GeneratorConsistent.setGenerator (hk (by simp))).congr rfl rfl
  case encodeAll =>
    exact (GeneratorConsistent.setGenerator (hk (by simp [Terms.builds]))).congr (by simp [State.writes]) (by simp [State.writes])
  all_goals exact h.congr (by simp [State.writes]) (by simp [State.writes])

theorem GeneratorConsistent.host {s u : State} (h : GeneratorConsistent s) (hu : HostEffect s u) : GeneratorConsistent u := by
  cases hu with
  | status v => exact h.congr (by simp [Status.writeOneToClear_eq]) rfl
  | reset => exact ⟨fun _ => rfl, fun hg => by simp [State.reset, Status.reset] at hg⟩
  | _ => exact h

theorem generatorConsistent_stepKeeps : StepKeeps GeneratorConsistent where
  events _ _ h := h
  reply _ _ h := h
  host _ _ hu h := h.host hu
  initEnds _ _ h := h
  fault _ _ h := h
  count _ h := h.congr (by simp) (by simp)
  success _ _ hc h := h.success hc

/-- Settles O58: a step leaves the generator registers alone, resets them, or sets them for the K that BAD_K lets through. -/
theorem generatorStaysConsistent : Obligations.GeneratorStaysConsistent :=
  fun _ _ hs h => generatorConsistent_stepKeeps.step hs h

end Sys2Proof.Safety
end

section

/-! How many bytes each command stores, and where. -/

namespace Sys2Proof.Machine

/-! ### How many bytes a command stores -/

theorem length_eccStep {gHigh rem : List Byte} (h : 0 < rem.length) (hg : gHigh.length = rem.length) (d : Byte) :
    (eccStep gHigh rem d).length = rem.length := by
  simp only [eccStep, List.length_zipWith, List.length_append, List.length_tail, List.length_singleton, hg]
  omega

theorem length_foldl_eccStep {gHigh rem : List Byte} (h : 0 < rem.length) (hg : gHigh.length = rem.length) (d : List Byte) :
    (d.foldl (eccStep gHigh) rem).length = rem.length := by
  induction d generalizing rem with
  | nil => rfl
  | cons x d ih =>
    have hstep := length_eccStep h hg x
    rw [List.foldl_cons, ih (by omega) (by omega), hstep]

theorem length_ecc (d : List Byte) {k : Nat} (hk : 1 ≤ k) : (ecc d k).length = k := by
  unfold ecc
  rw [length_foldl_eccStep (by simpa) (by simp), List.length_replicate]

@[simp] theorem length_syndromes (c : List Byte) (k : Nat) : (syndromes c k).length = k := by
  simp [syndromes]

theorem length_blockEccs (p : Params) (dbuf : Memory) : (blockEccs p dbuf).length = p.blocks := by
  simp [blockEccs]

/-- Codeword `j` of every block, when every block has one. -/
theorem interleavedRow_of_lt {p : Params} {j : Nat} (hj : j < p.d1) (f : Nat → Byte) :
    ((List.range p.blocks).filterMap fun b => if j < p.blockLen b then some (f b) else none) = (List.range p.blocks).map f := by
  rw [← List.filterMap_eq_map]
  refine List.filterMap_congr fun b _ => ?_
  have : j < p.blockLen b := by unfold Params.blockLen; split <;> omega
  simp [this]

/-- Codeword `D1`, which the group-2 blocks alone have. -/
theorem interleavedRow_last (p : Params) (f : Nat → Byte) :
    ((List.range p.blocks).filterMap fun b => if p.d1 < p.blockLen b then some (f b) else none) =
      (List.range p.b2).map fun n => f (p.b1 + n) := by
  have hlong : ∀ b, p.d1 < p.blockLen b ↔ p.b1 ≤ b := fun b => by unfold Params.blockLen; split <;> omega
  have hgroup1 : ((List.range p.b1).filterMap fun b => if p.b1 ≤ b then some (f b) else none) = [] := by
    refine List.filterMap_eq_nil_iff.2 fun b hb => ?_
    have hlt := List.mem_range.1 hb
    exact if_neg (by omega)
  simp only [hlong, Params.blocks, List.range_add, List.filterMap_append, hgroup1, List.filterMap_map, List.nil_append]
  rw [← List.filterMap_eq_map]
  exact List.filterMap_congr fun n _ => by simp

/-- The data part is the rows that all blocks share, then the row of the group-2 blocks (spec/42_interleave.md R164). -/
theorem interleavedData_eq (p : Params) (dbuf : Memory) :
    interleavedData p dbuf =
      ((List.range p.d1).flatMap fun j => (List.range p.blocks).map fun b => dbuf.readByte (p.blockStart b + j)) ++
        (List.range p.b2).map fun n => dbuf.readByte (p.blockStart (p.b1 + n) + p.d1) := by
  have hshared : ((List.range p.d1).flatMap fun j => (List.range p.blocks).filterMap fun b =>
        if j < p.blockLen b then some (dbuf.readByte (p.blockStart b + j)) else none) =
      (List.range p.d1).flatMap fun j => (List.range p.blocks).map fun b => dbuf.readByte (p.blockStart b + j) :=
    List.flatMap_congr fun j hj => interleavedRow_of_lt (List.mem_range.1 hj) _
  unfold interleavedData
  by_cases h2 : 0 < p.b2
  · rw [if_pos h2, List.range_succ, List.flatMap_append, hshared, List.flatMap_singleton, interleavedRow_last]
  · have h0 : p.b2 = 0 := by omega
    rw [if_neg h2, Nat.add_zero, hshared, h0, List.range_zero, List.map_nil, List.append_nil]

theorem length_interleavedData (p : Params) (dbuf : Memory) : (interleavedData p dbuf).length = p.dataTotal := by
  simp only [interleavedData_eq, List.length_append, List.length_flatMap, List.length_map, List.length_range, List.map_const',
    List.sum_replicate, Params.dataTotal, Params.blocks, smul_eq_mul]
  ring

theorem length_interleavedEcc (p : Params) (dbuf : Memory) : (interleavedEcc p dbuf).length = p.k * p.blocks := by
  simp [interleavedEcc, List.length_flatMap, length_blockEccs]

/-- INTERLEAVE stores CW_TOTAL codewords (spec/42_interleave.md R166). -/
theorem length_interleaved (p : Params) (dbuf : Memory) : (interleaved p dbuf).length = p.cwTotal := by
  rw [interleaved, List.length_append, length_interleavedData, length_interleavedEcc, Params.cwTotal, Nat.mul_comm]

/-! ### Where a command stores them -/

theorem Params.badRange_eq_false {p : Params} {len : Nat} :
    p.badRange len = false ↔ p.src + len ≤ Config.dbufSize ∧ p.dst + (p.k - 1) * p.stride < Config.cbufSize := by
  have hsize : 0 < Config.cbufSize := by decide
  simp only [Params.badRange, Bool.or_eq_false_iff, decide_eq_false_iff_not]
  omega

/-- The destination of byte `j` of a single-block command lies inside CBUF. -/
theorem Params.dst_lt {p : Params} {len j : Nat} (h : p.badRange len = false) (hj : j < p.k) :
    p.dst + j * p.stride < Config.cbufSize := by
  have hlast := (Params.badRange_eq_false.1 h).2
  have : j * p.stride ≤ (p.k - 1) * p.stride := Nat.mul_le_mul_right _ (by omega)
  omega

end Sys2Proof.Machine
end

section

/-! The memories keep their canonical form, and the buffers their range, at every step. -/

namespace Sys2Proof.Machine

/-- A symbol of a legal version fits the module RAM. -/
theorem width_le_mxDim {v : Nat} (h : v ≤ Config.vMax) : width v ≤ Config.mxDim := by
  simp only [width, Config.mxDim, Config.vMax] at *
  omega

theorem Memory.wf_commitMatrix {m : Memory} (hm : m.wf) (fw : BitVec 15) (k : BitVec 3) (w : Nat) : (commitMatrix fw k w m).wf :=
  Memory.wf_writeAll (Memory.wf_mapBytes hm _) _

theorem Memory.within_writeWord {n : Nat} {m : Memory} (hm : m.within n) {a : Nat} (ha : a + 3 < n) (v : Word) :
    (m.writeWord a v).within n := by
  unfold Memory.writeWord
  refine Memory.within_writeByte (Memory.within_writeByte (Memory.within_writeByte (Memory.within_writeByte hm ?_ _) ?_ _) ?_ _) ?_ _
  all_goals omega

end Sys2Proof.Machine

namespace Sys2Proof.Safety

open Sys2Proof.Machine Sys2Proof.Terms

/-! ### The canonical form -/

/-- A successful command stores through the memory operations, or replaces MX by a scratch matrix that fits. -/
theorem MemoriesCanonical.success {s : State} {i : Instr} (hc : ChecksPass i s) (h : MemoriesCanonical s) :
    MemoriesCanonical (s.writes i).complete := by
  obtain ⟨hd, hcb, hmx⟩ := h
  have hfit := fun hi => width_le_mxDim (Params.badVersion_eq_false.1 (badVersion_of_checksPass hc hi)).2
  cases i
  case rsBlock => exact ⟨hd, Memory.wf_writeStrided hcb _ _ _, hmx⟩
  case rsSynd => exact ⟨hd, Memory.wf_writeStrided hcb _ _ _, hmx⟩
  case interleave => exact ⟨hd, Memory.wf_writeStrided hcb _ _ _, hmx⟩
  case matrixBuild =>
    refine ⟨by simpa [State.writes] using hd, by simpa [State.writes] using hcb, ?_⟩
    simp only [State.writes, State.complete_mx, State.buildWrites_mx, State.recordFreeCount_params]
    exact Memory.wf_toMemory (hfit (.inl rfl)) _
  case maskCommit m =>
    refine ⟨by simpa [State.writes] using hd, by simpa [State.writes] using hcb, ?_⟩
    simp only [State.writes, State.complete_mx, State.commitWrites_mx]
    exact Memory.wf_commitMatrix hmx _ _ _
  case maskAuto =>
    refine ⟨by simpa [State.writes] using hd, by simpa [State.writes] using hcb, ?_⟩
    simp only [State.writes, State.complete_mx, State.autoWrites_mx]
    exact Memory.wf_commitMatrix hmx _ _ _
  case encodeAll =>
    refine ⟨by simpa [State.writes] using hd, ?_, ?_⟩
    · simp only [State.writes, State.complete_cbuf, State.autoWrites_cbuf, State.buildWrites_cbuf, State.recordFreeCount_cbuf,
        State.interleaveWrites_cbuf]
      exact Memory.wf_writeStrided hcb _ _ _
    · simp only [State.writes, State.complete_mx, State.autoWrites_mx, State.buildWrites_mx, State.recordFreeCount_params,
        State.interleaveWrites_params]
      exact Memory.wf_commitMatrix (Memory.wf_toMemory (hfit (.inr rfl)) _) _ _ _
  all_goals exact ⟨hd, hcb, hmx⟩

theorem MemoriesCanonical.host {s u : State} (h : MemoriesCanonical s) (hu : HostEffect s u) : MemoriesCanonical u := by
  obtain ⟨hd, hcb, hmx⟩ := h
  cases hu with
  | reset => exact ⟨Memory.wf_nil, Memory.wf_nil, Memory.wf_nil⟩
  | dbuf8 a v => exact ⟨Memory.wf_writeByte hd a v, hcb, hmx⟩
  | dbuf32 a v => exact ⟨Memory.wf_writeWord hd a v, hcb, hmx⟩
  | cbuf8 a v => exact ⟨hd, Memory.wf_writeByte hcb a v, hmx⟩
  | cbuf32 a v => exact ⟨hd, Memory.wf_writeWord hcb a v, hmx⟩
  | _ => exact ⟨hd, hcb, hmx⟩

theorem memoriesCanonical_stepKeeps : StepKeeps MemoriesCanonical where
  events _ _ h := h
  reply _ _ h := h
  host _ _ hu h := h.host hu
  initEnds _ _ h := h
  fault _ _ h := h
  count _ h := by simpa [MemoriesCanonical] using h
  success _ _ hc h := h.success hc

/-! ### The range of the buffers -/

/-- What INTERLEAVE stores fits CBUF when the layout is legal. -/
theorem within_interleaved {p : Params} {m : Memory} (hm : m.within Config.cbufSize) (hp : p.layoutOk = true) (dbuf : Memory) :
    (m.writeStrided 0 1 (interleaved p dbuf)).within Config.cbufSize := by
  obtain ⟨-, -, -, hcw⟩ := Params.layoutOk_eq_true.1 hp
  refine Memory.within_writeStrided hm 0 1 _ fun j hj => ?_
  rw [length_interleaved] at hj
  omega

/-- A successful command stores inside CBUF: its checks saw to it. -/
theorem BuffersInRange.success {s : State} {i : Instr} (hc : ChecksPass i s) (h : BuffersInRange s) :
    BuffersInRange (s.writes i).complete := by
  obtain ⟨hd, hcb⟩ := h
  cases i
  case rsBlock =>
    have hk := (Params.badK_eq_false.1 (badK_of_checksPass hc (by simp))).1
    have hr : s.params.badRange s.params.n = false := hc (s.params.badRange _, .badRange) (by simp [checksOf])
    refine ⟨hd, Memory.within_writeStrided hcb _ _ _ fun j hj => Params.dst_lt hr ?_⟩
    rwa [length_ecc _ hk] at hj
  case rsSynd =>
    have hr : s.params.badRange (s.params.n + s.params.k) = false :=
      hc (s.params.badRange _, .badRange) (by simp [checksOf])
    refine ⟨hd, Memory.within_writeStrided hcb _ _ _ fun j hj => Params.dst_lt hr ?_⟩
    rwa [length_syndromes] at hj
  case interleave => exact ⟨hd, within_interleaved hcb (layoutOk_of_checksPass hc (.inl rfl)) _⟩
  case encodeAll =>
    refine ⟨by simpa [State.writes] using hd, ?_⟩
    simp only [State.writes, State.complete_cbuf, State.autoWrites_cbuf, State.buildWrites_cbuf, State.recordFreeCount_cbuf,
      State.interleaveWrites_cbuf]
    exact within_interleaved hcb (layoutOk_of_checksPass hc (.inr (.inr rfl))) _
  all_goals exact ⟨by simpa [State.writes] using hd, by simpa [State.writes] using hcb⟩

theorem BuffersInRange.host {s u : State} (h : BuffersInRange s) (hu : HostEffect s u) : BuffersInRange u := by
  obtain ⟨hd, hcb⟩ := h
  cases hu with
  | reset => exact ⟨by simp [State.reset, Memory.within], by simp [State.reset, Memory.within]⟩
  | dbuf8 a v ha => exact ⟨Memory.within_writeByte hd ha v, hcb⟩
  | dbuf32 a v ha => exact ⟨Memory.within_writeWord hd ha v, hcb⟩
  | cbuf8 a v ha => exact ⟨hd, Memory.within_writeByte hcb ha v⟩
  | cbuf32 a v ha => exact ⟨hd, Memory.within_writeWord hcb ha v⟩
  | _ => exact ⟨hd, hcb⟩

theorem buffersInRange_stepKeeps : StepKeeps BuffersInRange where
  events _ _ h := h
  reply _ _ h := h
  host _ _ hu h := h.host hu
  initEnds _ _ h := h
  fault _ _ h := h
  count _ h := by simpa [BuffersInRange] using h
  success _ _ hc h := h.success hc

/-- Settles O56: each memory operation keeps the canonical form, and the checks of a command or of the port bound what it stores. -/
theorem memoriesStayCanonical : Obligations.MemoriesStayCanonical :=
  fun _ _ hs h => ⟨memoriesCanonical_stepKeeps.step hs.1 h, buffersInRange_stepKeeps.step hs.2 h⟩

end Sys2Proof.Safety
end

section

/-! The fields of a cell, and MX after a commit, cell by cell. -/

namespace Sys2Proof.Machine

open Sys2Proof.Terms

/-! ### The fields of a cell (spec/10_state.md R50) -/

@[simp] theorem cellKind_unlisted : cellKind Memory.unlisted = .empty := by decide

@[simp] theorem cellKind_mkCell (k : Kind) (dark raw : Bool) : cellKind (mkCell k dark raw) = k := by
  cases k <;> decide +revert

@[simp] theorem cellDark_mkCell (k : Kind) (dark raw : Bool) : cellDark (mkCell k dark raw) = dark := by
  cases k <;> decide +revert

@[simp] theorem cellRaw_mkCell (k : Kind) (dark raw : Bool) : cellRaw (mkCell k dark raw) = raw := by
  cases k <;> decide +revert

theorem mkCell_lt (k : Kind) (dark raw : Bool) : (mkCell k dark raw).toNat < 16 := by
  cases k <;> decide +revert

@[simp] theorem cellKind_setDark (b : Byte) (d : Bool) : cellKind (setDark b d) = cellKind b := by
  decide +revert

@[simp] theorem cellRaw_setDark (b : Byte) (d : Bool) : cellRaw (setDark b d) = cellRaw b := by
  decide +revert

@[simp] theorem cellDark_setDark (b : Byte) (d : Bool) : cellDark (setDark b d) = d := by
  decide +revert

theorem setDark_lt {b : Byte} (h : b.toNat < 16) (d : Bool) : (setDark b d).toNat < 16 := by
  decide +revert

/-! ### The format positions (spec/43_matrix.md R191) -/

/-- FmtPos(W) lists the table of R191. -/
theorem mem_formatPositions {w r c k : Nat} (hw : 21 ≤ w) : (r, c, k) ∈ formatPositions w ↔ formatPosition w k r c := by
  simp only [formatPositions, List.mem_append, List.mem_map, List.mem_range, List.mem_cons, Prod.mk.injEq, List.not_mem_nil, or_false,
    formatPosition]
  constructor
  · rintro ((((⟨n, hn, rfl, rfl, rfl⟩ | hcorner) | ⟨n, hn, rfl, rfl, rfl⟩) | ⟨n, hn, rfl, rfl, rfl⟩) | ⟨n, hn, rfl, rfl, rfl⟩)
    · exact .inl ⟨by omega, rfl, rfl⟩
    · rcases hcorner with ⟨rfl, rfl, rfl⟩ | ⟨rfl, rfl, rfl⟩ | ⟨rfl, rfl, rfl⟩ <;> simp
    · exact .inr (.inr (.inr (.inr (.inl ⟨by omega, by omega, rfl, by omega⟩))))
    · exact .inr (.inr (.inr (.inr (.inr (.inl ⟨by omega, rfl, rfl⟩)))))
    · exact .inr (.inr (.inr (.inr (.inr (.inr ⟨by omega, by omega, by omega, rfl⟩)))))
  · rintro (⟨hk, rfl, rfl⟩ | ⟨rfl, rfl, rfl⟩ | ⟨rfl, rfl, rfl⟩ | ⟨rfl, rfl, rfl⟩ | ⟨hk, hk', rfl, rfl⟩ | ⟨hk, rfl, rfl⟩ |
      ⟨hk, hk', rfl, rfl⟩)
    · exact .inl (.inl (.inl (.inl ⟨r, by omega, rfl, rfl, rfl⟩)))
    · exact .inl (.inl (.inl (.inr (by simp))))
    · exact .inl (.inl (.inl (.inr (by simp))))
    · exact .inl (.inl (.inl (.inr (by simp))))
    · exact .inl (.inl (.inr ⟨k - 9, by omega, rfl, by omega, by omega⟩))
    · exact .inl (.inr ⟨k, by omega, rfl, rfl, rfl⟩)
    · exact .inr ⟨k - 8, by omega, by omega, rfl, by omega⟩

/-- Each format position stands in the symbol and has one bit index. -/
theorem formatPosition_lt {w k r c : Nat} (hw : 21 ≤ w) (h : formatPosition w k r c) : r < w ∧ c < w ∧ k < 15 := by
  unfold formatPosition at h
  omega

theorem formatPosition_unique {w k k' r c : Nat} (hw : 21 ≤ w) (h : formatPosition w k r c) (h' : formatPosition w k' r c) :
    k = k' := by
  unfold formatPosition at h h'
  omega

theorem formatIndex_eq_some {w r c k : Nat} (hw : 21 ≤ w) : formatIndex w r c = some k ↔ formatPosition w k r c := by
  unfold formatIndex
  constructor
  · intro h
    obtain ⟨⟨r', c', k'⟩, hfind, rfl⟩ := Option.map_eq_some_iff.1 h
    obtain ⟨rfl, rfl⟩ : r' = r ∧ c' = c := by simpa using List.find?_some hfind
    exact (mem_formatPositions hw).1 (List.mem_of_find?_eq_some hfind)
  · intro h
    cases hfind : (formatPositions w).find? fun p => p.1 = r && p.2.1 = c with
    | none =>
      have := List.find?_eq_none.1 hfind _ ((mem_formatPositions hw).2 h)
      simp at this
    | some p =>
      obtain ⟨r', c', k'⟩ := p
      obtain ⟨rfl, rfl⟩ : r' = r ∧ c' = c := by simpa using List.find?_some hfind
      have hpos := (mem_formatPositions hw).1 (List.mem_of_find?_eq_some hfind)
      simp [formatPosition_unique hw hpos h]

theorem formatIndex_eq_none {w r c : Nat} (hw : 21 ≤ w) : formatIndex w r c = none ↔ ∀ k, ¬ formatPosition w k r c := by
  simp only [← formatIndex_eq_some hw, Option.eq_none_iff_forall_not_mem, Option.mem_def]

/-! ### MX after a commit (spec/44_mask.md R233, R235) -/

/-- The committed cell at (r, c): the DARK bit of a DATA cell shows the mask, that of a format position the format word. -/
def committedCell (fw : BitVec 15) (m : BitVec 3) (w r c : Nat) (b : Byte) : Byte :=
  match formatIndex w r c with
  | some k => setDark (commitCell m (mxIndex r c) b) (fw.getLsbD k)
  | none => commitCell m (mxIndex r c) b

theorem commitCell_mxIndex (m : BitVec 3) (r : Nat) {c : Nat} (hc : c < Config.mxDim) (b : Byte) :
    commitCell m (mxIndex r c) b = if cellKind b = .data then setDark b (cellRaw b ^^ maskBit m r c) else b := by
  have hdiv : mxIndex r c / Config.mxDim = r := by simp only [mxIndex, Config.mxDim] at *; omega
  have hmod : mxIndex r c % Config.mxDim = c := by simp only [mxIndex, Config.mxDim] at *; omega
  rw [commitCell, hdiv, hmod]

/-- The one spec lemma of a commit: every cell of the symbol after it. -/
theorem readByte_commitMatrix {mx : Memory} (hm : mx.wf) (fw : BitVec 15) (m : BitVec 3) {w r c : Nat} (hw : 21 ≤ w)
    (hdim : w ≤ Config.mxDim) (hc : c < w) :
    (commitMatrix fw m w mx).readByte (mxIndex r c) = committedCell fw m w r c (mx.readByte (mxIndex r c)) := by
  have hdata : ∀ j, (mx.mapBytes (commitCell m)).readByte j = commitCell m j (mx.readByte j) := fun j =>
    Memory.readByte_mapBytes hm _ j (by simp [commitCell])
  have hwf := Memory.wf_mapBytes hm (commitCell m)
  simp only [commitMatrix, committedCell]
  cases hk : formatIndex w r c with
  | some k =>
    have hpos := (formatIndex_eq_some hw).1 hk
    refine Memory.readByte_writeAll hwf _ ⟨_, List.mem_map_of_mem ((mem_formatPositions hw).2 hpos), rfl⟩ fun x hx hxi => ?_
    obtain ⟨⟨r', c', k'⟩, hp, rfl⟩ := List.mem_map.1 hx
    have hpos' := (mem_formatPositions hw).1 hp
    have hc' := (formatPosition_lt hw hpos').2.1
    have hsame : mxIndex r' c' = mxIndex r c := hxi
    obtain ⟨rfl, rfl⟩ := mxIndex_inj (by omega) (by omega) hsame
    simp only [hdata, formatPosition_unique hw hpos' hpos]
  | none =>
    rw [Memory.readByte_writeAll_ne, hdata]
    intro x hx hxi
    obtain ⟨⟨r', c', k'⟩, hp, rfl⟩ := List.mem_map.1 hx
    have hpos' := (mem_formatPositions hw).1 hp
    have hc' := (formatPosition_lt hw hpos').2.1
    have hsame : mxIndex r' c' = mxIndex r c := hxi
    obtain ⟨rfl, rfl⟩ := mxIndex_inj (by omega) (by omega) hsame
    exact (formatIndex_eq_none hw).1 hk k' hpos'

/-- Listed writes list no offset but theirs and the old ones. -/
theorem Memory.mem_writeAll {m : Memory} {ws : List (Nat × Byte)} {x : Host.Cell} (hx : x ∈ m.writeAll ws) :
    x ∈ m ∨ ∃ y ∈ ws, x.1 = y.1 := by
  induction ws generalizing m with
  | nil => exact .inl hx
  | cons w ws ih =>
    rcases ih hx with h | ⟨y, hy, he⟩
    · rcases Memory.mem_writeByte h with h | ⟨rfl, -⟩
      · exact .inl h
      · exact .inr ⟨w, List.mem_cons_self, rfl⟩
    · exact .inr ⟨y, List.mem_cons_of_mem _ hy, he⟩

/-- Every listed cell lies in a symbol of width `w`. -/
def Memory.inSymbol (w : Nat) (m : Memory) : Prop := ∀ x ∈ m, x.1 / Config.mxDim < w ∧ x.1 % Config.mxDim < w

theorem mxIndex_inSymbol {w r c : Nat} (hdim : w ≤ Config.mxDim) (hr : r < w) (hc : c < w) :
    mxIndex r c / Config.mxDim < w ∧ mxIndex r c % Config.mxDim < w := by
  simp only [mxIndex, Config.mxDim] at *
  omega

theorem Memory.inSymbol_toMemory {w : Nat} (hdim : w ≤ Config.mxDim) (g : Grid) : (g.toMemory w).inSymbol w := by
  intro x hx
  obtain ⟨r, c, hr, hc, rfl, -⟩ := Grid.mem_toMemory.1 hx
  exact mxIndex_inSymbol hdim hr hc

theorem Memory.inSymbol_commitMatrix {w : Nat} (hw : 21 ≤ w) (hdim : w ≤ Config.mxDim) {mx : Memory} (h : mx.inSymbol w)
    (fw : BitVec 15) (m : BitVec 3) : (commitMatrix fw m w mx).inSymbol w := by
  intro x hx
  rcases Memory.mem_writeAll hx with hx | ⟨y, hy, he⟩
  · obtain ⟨b, hb, -, -⟩ := Memory.mem_mapBytes hx
    exact h (x.1, b) hb
  · obtain ⟨⟨r, c, k⟩, hp, rfl⟩ := List.mem_map.1 hy
    obtain ⟨hr, hc, -⟩ := formatPosition_lt hw ((mem_formatPositions hw).1 hp)
    rw [he]
    exact mxIndex_inSymbol hdim hr hc

end Sys2Proof.Machine
end

section

/-! The matrix MATRIX_BUILD makes, by the kinds of its cells. -/

namespace Sys2Proof.Machine

open Sys2Proof.Terms

/-! ### Writes to a scratch matrix -/

theorem Grid.putAll_append (g : Grid) (xs ys : List CellWrite) : g.putAll (xs ++ ys) = (g.putAll xs).putAll ys :=
  List.foldl_append

/-- A write to the cell (r, c). -/
def CellWrite.hits (x : CellWrite) (r c : Nat) : Prop := x.1 = r ∧ x.2.1 = c

/-- A cell after several writes is what one of them wrote there, or untouched. -/
theorem Grid.cell_putAll_cases {w : Nat} {g : Grid} (h : g.square w) (ws : List CellWrite) {r c : Nat} (hr : r < w) (hc : c < w) :
    (∃ x ∈ ws, CellWrite.hits x r c ∧ (g.putAll ws).cell r c = x.2.2) ∨
    ((∀ x ∈ ws, ¬ CellWrite.hits x r c) ∧ (g.putAll ws).cell r c = g.cell r c) := by
  rw [Grid.cell_putAll h ws hr hc]
  cases hf : ws.reverse.find? fun x => x.1 = r ∧ x.2.1 = c with
  | some x =>
    exact .inl ⟨x, List.mem_reverse.1 (List.mem_of_find?_eq_some hf), by simpa [CellWrite.hits] using List.find?_some hf, rfl⟩
  | none =>
    refine .inr ⟨fun x hx => ?_, rfl⟩
    have := List.find?_eq_none.1 hf x (List.mem_reverse.2 hx)
    simpa [CellWrite.hits] using this

/-! ### The layout, by kind (spec/43_matrix.md R181) -/

/-- The width of a symbol is at least 21. -/
theorem width_ge {v : Nat} (hv : 1 ≤ v) : 21 ≤ width v := by
  unfold width
  omega

/-- Steps (1) to (5) of R181. -/
def functionWrites (v : Nat) (ps : List Nat) : List CellWrite :=
  finderWrites (width v) ++ separatorWrites (width v) ++ timingWrites (width v) ++ alignmentWrites ps ++ versionWrites v (width v)

theorem layoutWrites_eq (v : Nat) (ps : List Nat) :
    layoutWrites v ps = functionWrites v ps ++ formatWrites (width v) ++ [darkModuleWrite (width v)] := rfl

/-- A write of a function module. -/
def CellWrite.isFunction (x : CellWrite) : Prop := ∃ d, x.2.2 = mkCell .func d false

theorem setf_isFunction (r c : Nat) (d : Bool) : CellWrite.isFunction (setf r c d) := ⟨d, rfl⟩

theorem ringSquare_isFunction {h light r0 c0 : Nat} {x : CellWrite} (hx : x ∈ ringSquare h light r0 c0) :
    CellWrite.isFunction x := by
  simp only [ringSquare, List.mem_flatMap, List.mem_map] at hx
  obtain ⟨i, -, j, -, rfl⟩ := hx
  exact setf_isFunction _ _ _

/-- Steps (1) to (5) write function modules only. -/
theorem functionWrites_isFunction {v : Nat} {ps : List Nat} {x : CellWrite} (hx : x ∈ functionWrites v ps) :
    CellWrite.isFunction x := by
  simp only [functionWrites, List.mem_append] at hx
  rcases hx with (((hx | hx) | hx) | hx) | hx
  · simp only [finderWrites, List.mem_append] at hx
    rcases hx with (hx | hx) | hx <;> exact ringSquare_isFunction hx
  · simp only [separatorWrites, List.mem_flatMap, List.mem_cons, List.not_mem_nil, or_false] at hx
    obtain ⟨i, -, rfl | rfl | rfl | rfl | rfl | rfl⟩ := hx <;> exact setf_isFunction _ _ _
  · simp only [timingWrites, List.mem_flatMap, List.mem_cons, List.not_mem_nil, or_false] at hx
    obtain ⟨n, -, rfl | rfl⟩ := hx <;> exact setf_isFunction _ _ _
  · obtain ⟨p, -, hx⟩ := List.mem_flatMap.1 hx
    exact ringSquare_isFunction hx
  · simp only [versionWrites] at hx
    split at hx
    · simp only [List.mem_flatMap, List.mem_cons, List.not_mem_nil, or_false] at hx
      obtain ⟨i, -, rfl | rfl⟩ := hx <;> exact setf_isFunction _ _ _
    · simp at hx

/-- The cell (r, c) of the layout: a function module outside the format positions, a reserved format position, or EMPTY and never
written. -/
inductive LayoutCellKind (v : Nat) (ps : List Nat) (r c : Nat) : Prop where
  | function (d : Bool) (hcell : (layout v ps).cell r c = mkCell .func d false) (hpos : formatIndex (width v) r c = none)
  | format (hcell : (layout v ps).cell r c = mkCell .fmt false false) (hpos : formatIndex (width v) r c ≠ none)
  | free (hcell : (layout v ps).cell r c = 0#8) (hpos : formatIndex (width v) r c = none)
      (hfree : ∀ x ∈ functionWrites v ps, ¬ CellWrite.hits x r c)

theorem layoutCellKind {v : Nat} (hv : 1 ≤ v) (ps : List Nat) {r c : Nat} (hr : r < width v) (hc : c < width v) :
    LayoutCellKind v ps r c := by
  have hw := width_ge hv
  have hsq := Grid.square_blank (width v)
  have hsq' := Grid.square_putAll hsq (functionWrites v ps)
  have hdef : layout v ps =
      (((Grid.blank (width v)).putAll (functionWrites v ps)).putAll (formatWrites (width v))).putAll [darkModuleWrite (width v)] := by
    rw [layout, layoutWrites_eq, Grid.putAll_append, Grid.putAll_append]
  rcases Grid.cell_putAll_cases (Grid.square_putAll hsq' (formatWrites _)) [darkModuleWrite (width v)] hr hc with
    ⟨x, hx, hhit, hcell⟩ | ⟨-, hcell⟩
  · obtain rfl := List.mem_singleton.1 hx
    obtain ⟨rfl, rfl⟩ := hhit
    refine .function true (hdef ▸ hcell) ((formatIndex_eq_none hw).2 fun k hk => ?_)
    simp only [darkModuleWrite, setf, formatPosition] at hk
    omega
  rw [← hdef] at hcell
  rcases Grid.cell_putAll_cases hsq' (formatWrites (width v)) hr hc with ⟨x, hx, hhit, hfmt⟩ | ⟨hno, hfmt⟩
  · obtain ⟨⟨r', c', k⟩, hp, rfl⟩ := List.mem_map.1 hx
    obtain ⟨rfl, rfl⟩ := hhit
    have hk := (formatIndex_eq_some hw).2 ((mem_formatPositions hw).1 hp)
    exact .format (hcell.trans hfmt) fun hnone => Option.some_ne_none k (hk.symm.trans hnone)
  have hpos : formatIndex (width v) r c = none := (formatIndex_eq_none hw).2 fun k hk =>
    hno _ (List.mem_map_of_mem ((mem_formatPositions hw).2 hk)) ⟨rfl, rfl⟩
  rcases Grid.cell_putAll_cases hsq (functionWrites v ps) hr hc with ⟨x, hx, -, hfun⟩ | ⟨hno', hfun⟩
  · obtain ⟨d, hd⟩ := functionWrites_isFunction hx
    exact .function d (by rw [hcell, hfmt, hfun, hd]) hpos
  · exact .free (by rw [hcell, hfmt, hfun, Grid.cell_blank]) hpos hno'

theorem exists_mem_ringSquare {h i j : Nat} (light r0 c0 : Nat) (hi : i ≤ 2 * h) (hj : j ≤ 2 * h) :
    ∃ x ∈ ringSquare h light r0 c0, CellWrite.hits x (r0 + i) (c0 + j) := by
  refine ⟨_, List.mem_flatMap.2 ⟨i, List.mem_range.2 (by omega), List.mem_map.2 ⟨j, List.mem_range.2 (by omega), rfl⟩⟩, rfl, rfl⟩

/-- Finder, separators and timing pattern fill column 6 (R206). -/
theorem functionWrites_column6 {v : Nat} (hv : 1 ≤ v) (ps : List Nat) {r : Nat} (hr : r < width v) :
    ∃ x ∈ functionWrites v ps, CellWrite.hits x r 6 := by
  have hw := width_ge hv
  suffices h : ∃ x ∈ finderWrites (width v) ++ separatorWrites (width v) ++ timingWrites (width v), CellWrite.hits x r 6 by
    obtain ⟨x, hx, hhit⟩ := h
    exact ⟨x, by simp only [functionWrites, List.mem_append] at hx ⊢; exact .inl (.inl hx), hhit⟩
  have hsep : ∀ q, q = 7 ∨ q = width v - 8 → ∃ x ∈ separatorWrites (width v), CellWrite.hits x q 6 := by
    rintro q (rfl | rfl) <;>
      exact ⟨setf _ 6 false, List.mem_flatMap.2 ⟨6, by simp, by simp⟩, rfl, rfl⟩
  by_cases htop : r < 7
  · obtain ⟨x, hx, hhit⟩ := exists_mem_ringSquare (h := 3) (i := r) (j := 6) 2 0 0 (by omega) (by omega)
    exact ⟨x, by simp [finderWrites, hx], by simpa using hhit⟩
  by_cases hs : r = 7 ∨ r = width v - 8
  · obtain ⟨x, hx, hhit⟩ := hsep r hs
    exact ⟨x, by simp [hx], hhit⟩
  by_cases hmid : r < width v - 8
  · refine ⟨setf r 6 (r % 2 = 0), List.mem_append_right _ (List.mem_flatMap.2 ⟨r - 8, List.mem_range.2 (by omega), ?_⟩), rfl, rfl⟩
    have : r - 8 + 8 = r := by omega
    simp [this]
  · obtain ⟨x, hx, hhit⟩ :=
      exists_mem_ringSquare (h := 3) (i := r - (width v - 7)) (j := 6) 2 (width v - 7) 0 (by omega) (by omega)
    rw [show width v - 7 + (r - (width v - 7)) = r by omega] at hhit
    exact ⟨x, by simp [finderWrites, hx], hhit⟩

/-- No cell of column 6 is EMPTY (R206). -/
theorem layout_column6 {v : Nat} (hv : 1 ≤ v) (ps : List Nat) {r : Nat} (hr : r < width v) :
    cellKind ((layout v ps).cell r 6) ≠ .empty := by
  have hw := width_ge hv
  cases layoutCellKind hv ps hr (show 6 < width v by omega) with
  | function d hcell => simp [hcell]
  | format hcell => simp [hcell]
  | free _ _ hfree =>
    obtain ⟨x, hx, hhit⟩ := functionWrites_column6 hv ps hr
    exact absurd hhit (hfree x hx)

/-! ### Data placement -/

/-- The strips from a right column on cover every column up to it but column 6 (R204). -/
theorem stripColumns_cover {fuel right c : Nat} (hfuel : right ≤ fuel) (hright : right % 2 = 0 ∧ 6 ≤ right ∨ right % 2 = 1 ∧ right ≤ 5)
    (hc : c ≤ right) (hc6 : c ≠ 6) : ∃ x ∈ stripColumns fuel right, c = x ∨ c = x - 1 := by
  induction fuel generalizing right with
  | zero => omega
  | succ fuel ih =>
    have h0 : right ≠ 0 := by omega
    simp only [stripColumns, if_neg h0]
    generalize hx : (if right = 6 then 5 else right) = x
    by_cases hhere : c = x ∨ c = x - 1
    · exact ⟨x, List.mem_cons_self, hhere⟩
    · have hx' : x = 5 ∧ right = 6 ∨ x = right ∧ right ≠ 6 := by split at hx <;> omega
      obtain ⟨y, hy, hcy⟩ := ih (right := x - 2) (by omega) (by omega) (by omega)
      exact ⟨y, List.mem_cons_of_mem _ hy, hcy⟩

/-- The traversal visits every cell of the symbol outside column 6 (R206). -/
theorem mem_zigzag {v : Nat} (hv : 1 ≤ v) {r c : Nat} (hr : r < width v) (hc : c < width v) (hc6 : c ≠ 6) :
    (r, c) ∈ zigzag (width v) := by
  have hw := width_ge hv
  have hodd : width v % 2 = 1 := by unfold width; omega
  obtain ⟨x, hx, hcx⟩ := stripColumns_cover (fuel := width v) (right := width v - 1) (c := c) (by omega) (by omega) (by omega) hc6
  obtain ⟨n, hn, rfl⟩ := List.mem_iff_getElem.1 hx
  refine List.mem_flatMap.2 ⟨((stripColumns (width v) (width v - 1))[n], n),
    List.mk_mem_zipIdx_iff_getElem?.2 (List.getElem?_eq_getElem hn), ?_⟩
  refine List.mem_flatMap.2 ⟨if n % 2 = 0 then width v - 1 - r else r, List.mem_range.2 (by split <;> omega), ?_⟩
  have hrow : (if n % 2 = 0 then width v - 1 - (if n % 2 = 0 then width v - 1 - r else r) else
      (if n % 2 = 0 then width v - 1 - r else r)) = r := by
    split <;> omega
  simp only [hrow, List.mem_cons, Prod.mk.injEq, true_and, List.not_mem_nil, or_false]
  exact hcx

/-- A free module is in the visiting order. -/
theorem mem_freeOrder {v : Nat} (hv : 1 ≤ v) (ps : List Nat) {r c : Nat} (hr : r < width v) (hc : c < width v)
    (hfree : cellKind ((layout v ps).cell r c) = .empty) : (r, c) ∈ freeOrder (width v) (layout v ps) := by
  have hc6 : c ≠ 6 := by
    rintro rfl
    exact layout_column6 hv ps hr hfree
  exact List.mem_filter.2 ⟨mem_zigzag hv hr hc hc6, by simpa using hfree⟩

/-- The placement writes DATA cells with DARK = RAW, to free modules (R205). -/
theorem placementWrites_mem {w n : Nat} {cbuf : Memory} {g : Grid} {x : CellWrite} (hx : x ∈ placementWrites w n cbuf g) :
    cellKind (g.cell x.1 x.2.1) = .empty ∧ ∃ b, x.2.2 = mkCell .data b b := by
  obtain ⟨⟨q, t⟩, hq, rfl⟩ := List.mem_map.1 hx
  have hfree : q ∈ freeOrder w g := List.mem_of_getElem? (List.mk_mem_zipIdx_iff_getElem?.1 hq)
  exact ⟨by simpa using (List.mem_filter.1 hfree).2, _, rfl⟩

/-- Every free module gets a placement write. -/
theorem exists_placementWrite {w n : Nat} {cbuf : Memory} {g : Grid} {r c : Nat} (h : (r, c) ∈ freeOrder w g) :
    ∃ x ∈ placementWrites w n cbuf g, CellWrite.hits x r c := by
  obtain ⟨t, ht, he⟩ := List.mem_iff_getElem.1 h
  refine ⟨_, List.mem_map_of_mem (List.mk_mem_zipIdx_iff_getElem?.2 (List.getElem?_eq_getElem ht)), ?_⟩
  exact ⟨by simp [he], by simp [he]⟩

/-- The cell (r, c) of the built matrix: a data module with DARK = RAW where the layout left a free module, else the layout's cell. -/
theorem builtGrid_cell {p : Params} (hv : 1 ≤ p.v) (cbuf : Memory) {r c : Nat} (hr : r < width p.v) (hc : c < width p.v) :
    (cellKind ((layout p.v p.alignList).cell r c) = .empty ∧ ∃ b, (builtGrid p cbuf).cell r c = mkCell .data b b) ∨
    (cellKind ((layout p.v p.alignList).cell r c) ≠ .empty ∧ (builtGrid p cbuf).cell r c = (layout p.v p.alignList).cell r c) := by
  have hdef : builtGrid p cbuf = (layout p.v p.alignList).putAll
      (placementWrites (width p.v) p.cwTotal cbuf (layout p.v p.alignList)) := by
    unfold builtGrid
    rfl
  rw [hdef]
  rcases Grid.cell_putAll_cases (Grid.square_layout p.v p.alignList)
    (placementWrites (width p.v) p.cwTotal cbuf (layout p.v p.alignList)) hr hc with ⟨x, hx, ⟨rfl, rfl⟩, hcell⟩ | ⟨hno, hcell⟩
  · obtain ⟨hfree, b, hb⟩ := placementWrites_mem hx
    exact .inl ⟨hfree, b, hcell.trans hb⟩
  · refine .inr ⟨fun hfree => ?_, hcell⟩
    obtain ⟨x, hx, hhit⟩ := exists_placementWrite (n := p.cwTotal) (cbuf := cbuf) (mem_freeOrder hv p.alignList hr hc hfree)
    exact hno x hx hhit

theorem Grid.square_builtGrid (p : Params) (cbuf : Memory) : (builtGrid p cbuf).square (width p.v) := by
  unfold builtGrid
  exact Grid.square_putAll (Grid.square_layout _ _) _

end Sys2Proof.Machine
end

section

/-! The matrix and the registers that describe it agree at every step. -/

namespace Sys2Proof.Safety

open Sys2Proof.Machine Sys2Proof.Terms

/-! ### Cells -/

/-- A freshly built cell obeys R51, no mask being committed. -/
theorem cellConsistent_builtGrid {p : Params} (hv : 1 ≤ p.v) (cbuf : Memory) {r c : Nat} (hr : r < width p.v) (hc : c < width p.v) :
    CellConsistent (width p.v) MaskField.reset 0#15 r c ((builtGrid p cbuf).cell r c) := by
  rcases builtGrid_cell hv cbuf hr hc with ⟨hempty, b, hcell⟩ | ⟨hne, hcell⟩ <;> rw [hcell]
  · have hpos : formatIndex (width p.v) r c = none := by
      cases layoutCellKind hv p.alignList hr hc with
      | function d h hpos => exact hpos
      | format h => simp [h] at hempty
      | free h hpos => exact hpos
    simp [CellConsistent, mkCell_lt, hpos, MaskField.reset]
  · cases layoutCellKind hv p.alignList hr hc with
    | function d h hpos => simp [h, CellConsistent, mkCell_lt, hpos]
    | format h hpos => simp [h, CellConsistent, mkCell_lt, hpos, MaskField.reset]
    | free h => exact absurd (by rw [h]; decide) hne

/-- A commit makes a consistent cell consistent with the mask and the format word committed. -/
theorem CellConsistent.commit {w r c : Nat} {sel : MaskField} {fmt : BitVec 15} {b : Byte} (h : CellConsistent w sel fmt r c b)
    (hc : c < Config.mxDim) (fw : BitVec 15) (m : BitVec 3) :
    CellConsistent w { mask := m, valid := true } fw r c (committedCell fw m w r c b) := by
  obtain ⟨hlt, hfmt, hne, hfunc, hdata, hraw⟩ := h
  unfold committedCell
  rw [commitCell_mxIndex m r hc]
  cases hk : formatIndex w r c with
  | some k =>
    have hkind : cellKind b = .fmt := hfmt.2 (by simp [hk])
    simp [CellConsistent, hkind, hk, setDark_lt hlt, (hraw hkind).1]
  | none =>
    have hnot : cellKind b ≠ .fmt := fun h => hfmt.1 h hk
    cases hkind : cellKind b with
    | empty => exact absurd hkind hne
    | fmt => exact absurd hkind hnot
    | func => simp [CellConsistent, hkind, hk, hlt, hfunc hkind]
    | data => simp [CellConsistent, hkind, hk, setDark_lt hlt]

/-! ### The matrix -/

/-- What a state with a matrix satisfies: the second clause of MatrixConsistent. -/
def MatrixBuilt (s : State) : Prop :=
  (Config.vMin ≤ s.symbol.mxVer.toNat ∧ s.symbol.mxVer.toNat ≤ Config.vMax) ∧
  s.symbol.verBits = verBitsOf s.symbol.mxVer.toNat ∧
  (s.symbol.maskSel.valid = false → s.symbol.maskSel.mask = 0#3 ∧ s.symbol.fmtBits = 0#15) ∧
  (s.symbol.maskSel.valid = true → ∃ n < 4, s.symbol.fmtBits = fmtWord (BitVec.ofNat 2 n) s.symbol.maskSel.mask) ∧
  s.mx.inSymbol s.mxWidth ∧
  ∀ r < s.mxWidth, ∀ c < s.mxWidth, CellConsistent s.mxWidth s.symbol.maskSel s.symbol.fmtBits r c (s.mxCell r c)

theorem matrixConsistent_of_built {s : State} (hb : s.status.built = true) : MatrixConsistent s ↔ MatrixBuilt s := by
  simp [MatrixConsistent, MatrixBuilt, hb, Memory.inSymbol, and_assoc]

/-- MX and the symbol registers alone matter, and of these not DATA_MODULES. -/
theorem MatrixBuilt.congr {s t : State} (h : MatrixBuilt s) (hmx : t.mx = s.mx)
    (hsym : ∃ d, t.symbol = { s.symbol with dataModules := d }) : MatrixBuilt t := by
  obtain ⟨d, hd⟩ := hsym
  unfold MatrixBuilt State.mxWidth State.mxCell
  rw [hmx, hd]
  exact h

theorem MatrixConsistent.congr {s t : State} (h : MatrixConsistent s) (hb : t.status.built = s.status.built) (hmx : t.mx = s.mx)
    (hsym : ∃ d, t.symbol = { s.symbol with dataModules := d }) (hpen : t.pen = s.pen) : MatrixConsistent t := by
  cases hbs : s.status.built with
  | true => exact (matrixConsistent_of_built (hb.trans hbs)).2 (((matrixConsistent_of_built hbs).1 h).congr hmx hsym)
  | false =>
    obtain ⟨d, hd⟩ := hsym
    refine ⟨fun _ => ?_, fun ht => by simp [hb, hbs] at ht⟩
    rw [hmx, hd, hpen]
    exact h.1 hbs

theorem MatrixBuilt.complete {s : State} (h : MatrixBuilt s) : MatrixBuilt s.complete := h

/-- MATRIX_BUILD makes a consistent matrix, whatever was in MX and the symbol registers before. -/
theorem matrixBuilt_buildWrites {s : State} (hv : s.params.badVersion = false) : MatrixBuilt s.buildWrites := by
  obtain ⟨h1, h40⟩ := Params.badVersion_eq_false.1 hv
  have hver : s.params.version.toNat = s.params.v := rfl
  have hw : s.buildWrites.mxWidth = width s.params.v := by simp [State.mxWidth, hver]
  have hdim := width_le_mxDim h40
  refine ⟨by simpa [hver] using And.intro h1 h40, by simp [hver], fun _ => by simp [MaskField.reset],
    fun h => by simp [MaskField.reset] at h, ?_, ?_⟩
  · rw [hw, State.buildWrites_mx]
    exact Memory.inSymbol_toMemory hdim _
  · rw [hw]
    intro r hr c hc
    rw [State.mxCell, State.buildWrites_mx, State.buildWrites_symbol,
      Grid.readByte_toMemory hdim (Grid.square_builtGrid _ _) (Nat.lt_of_lt_of_le hc hdim)]
    exact cellConsistent_builtGrid h1 s.cbuf hr hc

/-- A commit keeps the matrix consistent, with the mask and the format word committed. -/
theorem MatrixBuilt.commitWrites {s : State} (h : MatrixBuilt s) (hm : s.mx.wf) (m : BitVec 3) : MatrixBuilt (s.commitWrites m) := by
  obtain ⟨⟨h1, h40⟩, hverBits, -, -, hin, hcells⟩ := h
  have hw : (s.commitWrites m).mxWidth = s.mxWidth := by simp [State.mxWidth]
  have hge : 21 ≤ s.mxWidth := width_ge h1
  have hdim : s.mxWidth ≤ Config.mxDim := width_le_mxDim h40
  have hlevel : ∃ n < 4, fmtWord s.params.level m = fmtWord (BitVec.ofNat 2 n) m := ⟨_, s.params.level.isLt, by simp⟩
  refine ⟨by simpa using And.intro h1 h40, by simpa using hverBits, fun hf => by simp at hf, fun _ => by simpa using hlevel, ?_, ?_⟩
  · rw [hw, State.commitWrites_mx]
    exact Memory.inSymbol_commitMatrix hge hdim hin _ _
  · rw [hw]
    intro r hr c hc
    rw [State.mxCell, State.commitWrites_mx, State.commitWrites_symbol, readByte_commitMatrix hm _ _ hge hdim hc]
    exact (hcells r hr c hc).commit (Nat.lt_of_lt_of_le hc hdim) _ _

/-- MASK_AUTO keeps the matrix consistent: it commits the selected mask. -/
theorem MatrixBuilt.autoWrites {s : State} (h : MatrixBuilt s) (hm : s.mx.wf) : MatrixBuilt s.autoWrites :=
  (h.commitWrites hm s.bestMask).congr (by simp) ⟨s.symbol.dataModules, by simp⟩

/-! ### The step -/

/-- The matrix after a successful command: untouched, built, or committed. -/
theorem MatrixConsistent.success {s : State} {i : Instr} (hc : ChecksPass i s) (hm : MemoriesCanonical s)
    (h : MatrixConsistent s) : MatrixConsistent (s.writes i).complete := by
  have hbuilt := fun hi => built_of_checksPass hc hi
  have hversion := fun hi => badVersion_of_checksPass hc hi
  have hold := fun hi => (matrixConsistent_of_built (hbuilt hi)).1 h
  cases i
  case matrixBuild =>
    refine (matrixConsistent_of_built (by simp [State.writes])).2 (MatrixBuilt.complete ?_)
    simp only [State.writes]
    exact matrixBuilt_buildWrites (by simpa using hversion (.inl rfl))
  case maskScore m =>
    have hi : isMaskCommand (.maskScore m) := .inl ⟨m, rfl⟩
    refine (matrixConsistent_of_built (by simpa [State.writes] using hbuilt hi)).2 (MatrixBuilt.complete ?_)
    simp only [State.writes]
    exact (hold hi).congr (by simp) ⟨s.symbol.dataModules, by simp⟩
  case maskCommit m =>
    have hi : isMaskCommand (.maskCommit m) := .inr (.inl ⟨m, rfl⟩)
    refine (matrixConsistent_of_built (by simpa [State.writes] using hbuilt hi)).2 (MatrixBuilt.complete ?_)
    simp only [State.writes]
    exact (hold hi).commitWrites hm.2.2 _
  case maskAuto =>
    have hi : isMaskCommand .maskAuto := .inr (.inr rfl)
    refine (matrixConsistent_of_built (by simpa [State.writes] using hbuilt hi)).2 (MatrixBuilt.complete ?_)
    simp only [State.writes]
    exact (hold hi).autoWrites hm.2.2
  case encodeAll =>
    have hv := hversion (.inr rfl)
    refine (matrixConsistent_of_built (by simp [State.writes])).2 (MatrixBuilt.complete ?_)
    simp only [State.writes]
    have hwf : s.interleaveWrites.recordFreeCount.buildWrites.mx.wf := by
      rw [State.buildWrites_mx]
      exact Memory.wf_toMemory (width_le_mxDim (by simpa using (Params.badVersion_eq_false.1 hv).2)) _
    exact (matrixBuilt_buildWrites (by simpa using hv)).autoWrites hwf
  all_goals
    exact h.congr (by simp [State.writes]) (by simp [State.writes]) ⟨s.symbol.dataModules, by simp [State.writes]⟩
      (by simp [State.writes])

theorem MatrixConsistent.host {s u : State} (h : MatrixConsistent s) (hu : HostEffect s u) : MatrixConsistent u := by
  cases hu with
  | status v => exact h.congr (by simp [Status.writeOneToClear_eq]) rfl ⟨_, rfl⟩ rfl
  | reset => exact ⟨fun _ => ⟨rfl, rfl, rfl, rfl, rfl, rfl⟩, fun hb => by simp [State.reset, Status.reset] at hb⟩
  | _ => exact h

/-- The canonical form of MX enters: a commit of a matrix that is not canonical need not be read back. -/
theorem matrixConsistent_stepKeeps : StepKeeps fun s => MemoriesCanonical s ∧ MatrixConsistent s where
  events _ _ h := h
  reply _ _ h := h
  host _ _ hu h := ⟨h.1.host hu, h.2.host hu⟩
  initEnds _ _ h := h
  fault _ _ h := h
  count s h := ⟨memoriesCanonical_stepKeeps.count s h.1, h.2.congr (by simp) (by simp) ⟨_, State.recordFreeCount_symbol s⟩ (by simp)⟩
  success _ _ hc h := ⟨h.1.success hc, h.2.success hc h.1⟩

/-- Settles O59: the layout and the placement make a matrix that obeys R51, a commit keeps one so, and nothing else writes MX. -/
theorem matrixStaysConsistent : Obligations.MatrixStaysConsistent :=
  fun _ _ hs h => matrixConsistent_stepKeeps.step hs h

end Sys2Proof.Safety
end

section

/-! Which state each command can change. -/

namespace Sys2Proof.Machine

open Sys2Proof.Terms

/-- What no successful command writes (spec/10_state.md R60, R23, R47). -/
theorem State.writes_frame (s : State) (i : Instr) :
    (s.writes i).dbuf = s.dbuf ∧ (s.writes i).ctrl = s.ctrl ∧ (s.writes i).params = s.params ∧ (s.writes i).cmd = s.cmd ∧
    (s.writes i).events = s.events ∧ (s.writes i).reply = s.reply ∧ (s.writes i).status.busyErr = s.status.busyErr ∧
    (s.writes i).status.addrErr = s.status.addrErr := by
  cases i <;> simp [State.writes]

/-- Settles O44: a fault writes STATUS and SEQ only, LAYOUT_MISMATCH of a build also DATA_MODULES, and success what each command's row of
R60 lists. -/
theorem commandWriteSets : Obligations.CommandWriteSets := by
  intro i s t h
  rcases exec_cases h with ⟨c, -, rfl⟩ | ⟨hb, -, -, rfl⟩ | ⟨-, -, rfl⟩
  · simp
  · simp [hb]
  · obtain ⟨hdbuf, hctrl, hparams, hcmd, hevents, hreply, hbusy, haddr⟩ := s.writes_frame i
    refine ⟨hdbuf, hctrl, hparams, hcmd, hevents, hreply, hbusy, haddr, rfl, ?_⟩
    cases i <;> simp [State.writes, builds]

end Sys2Proof.Machine
end

section

/-! The register file as the host reads and writes it. -/

namespace Sys2Proof.Machine

open Sys2Proof.Terms

/-! ### Words made of fields -/

/-- The word `x` holds the number `n`, of at most `k` bits. -/
def HoldsNat (x : Word) (k n : Nat) : Prop := x.toNat = n ∧ n < 2 ^ k

theorem holdsNat_bitWord (b : Bool) : HoldsNat (bitWord b) 1 b.toNat := by
  cases b <;> exact ⟨rfl, by decide⟩

theorem toNat_bitWord (b : Bool) : (bitWord b).toNat = b.toNat := (holdsNat_bitWord b).1

theorem holdsNat_setWidth {k : Nat} (x : BitVec k) (hk : k ≤ 32) : HoldsNat (x.setWidth 32) k x.toNat :=
  ⟨BitVec.toNat_setWidth_of_le hk, x.isLt⟩

/-- A field placed above the bits already used adds its value times its weight. -/
theorem HoldsNat.or_shiftLeft {x y : Word} {j l n m : Nat} (hx : HoldsNat x j n) (k : Nat) (hy : HoldsNat y l m) (hjk : j ≤ k)
    (hkl : k + l ≤ 32) : HoldsNat (x ||| y <<< k) (k + l) (n + 2 ^ k * m) := by
  obtain ⟨rfl, hn⟩ := hx
  obtain ⟨rfl, hm⟩ := hy
  have hn' : x.toNat < 2 ^ k := Nat.lt_of_lt_of_le hn (Nat.pow_le_pow_right (by decide) hjk)
  have hfit : 2 ^ k * y.toNat + x.toNat < 2 ^ (k + l) := by
    rw [Nat.pow_add]
    calc 2 ^ k * y.toNat + x.toNat < 2 ^ k * y.toNat + 2 ^ k := by omega
      _ = 2 ^ k * (y.toNat + 1) := by ring
      _ ≤ 2 ^ k * 2 ^ l := Nat.mul_le_mul_left _ hm
  have h32 : 2 ^ (k + l) ≤ 2 ^ 32 := Nat.pow_le_pow_right (by decide) hkl
  refine ⟨?_, by omega⟩
  rw [BitVec.toNat_or, BitVec.toNat_shiftLeft, Nat.shiftLeft_eq, Nat.mul_comm y.toNat, Nat.mod_eq_of_lt (by omega), Nat.or_comm,
    Nat.add_comm, ← Nat.two_pow_add_eq_or_of_lt hn']

theorem toNat_maskField (f : MaskField) : f.word.toNat = f.mask.toNat + 256 * f.valid.toNat :=
  ((holdsNat_setWidth f.mask (by decide)).or_shiftLeft 8 (holdsNat_bitWord f.valid) (by decide) (by decide)).1

theorem toNat_readReg_ctrl (s : State) : (s.readReg .ctrl).toNat = s.ctrl.ie.toNat + 2 * s.ctrl.fie.toNat :=
  ((holdsNat_bitWord s.ctrl.ie).or_shiftLeft 1 (holdsNat_bitWord s.ctrl.fie) (by decide) (by decide)).1

/-- The fields of STATUS in their places (spec/10_state.md R24). -/
theorem toNat_statusWord (s : State) :
    s.statusWord.toNat =
      s.busy.toNat + 2 * s.status.done.toNat + 4 * s.status.fault.toNat + 8 * s.status.busyErr.toNat +
        16 * s.status.addrErr.toNat + 256 * s.status.fcode.toNat + 65536 * s.status.built.toNat +
        131072 * s.status.gpv.toNat := by
  have h1 := (holdsNat_bitWord s.busy).or_shiftLeft 1 (holdsNat_bitWord s.status.done) (by decide) (by decide)
  have h2 := h1.or_shiftLeft 2 (holdsNat_bitWord s.status.fault) (by decide) (by decide)
  have h3 := h2.or_shiftLeft 3 (holdsNat_bitWord s.status.busyErr) (by decide) (by decide)
  have h4 := h3.or_shiftLeft 4 (holdsNat_bitWord s.status.addrErr) (by decide) (by decide)
  have h8 := h4.or_shiftLeft 8 (holdsNat_setWidth s.status.fcode (by decide)) (by decide) (by decide)
  have h16 := h8.or_shiftLeft 16 (holdsNat_bitWord s.status.built) (by decide) (by decide)
  exact (h16.or_shiftLeft 17 (holdsNat_bitWord s.status.gpv) (by decide) (by decide)).1

/-! ### Accesses to registers -/

/-- The registers R80 lets the host reach while BUSY = 1. -/
def Reg.allowedBusy (r : Reg) : Prop := r = .id ∨ r = .ctrl ∨ r = .status

theorem busy_false_or_allowedBusy {s : State} {r : Reg} {a : Access} (hp : placeOf a.offset = .reg r)
    (hb : s.seq = .idle ∨ r.allowedBusy) : s.busy = false ∨ a.allowedBusy = true := by
  rcases hb with hb | hb
  · exact .inl (State.busy_eq_false.2 hb)
  · refine .inr ?_
    unfold Access.allowedBusy
    rcases hb with rfl | rfl | rfl <;> rw [hp]

theorem misaligned_eq_false {a : Access} (h : a.offset.toNat % 4 = 0) : a.misaligned = false := by
  simp [Access.misaligned, h]

/-- A performed read of a register changes nothing but the response. -/
theorem State.hostAccess_read32_reg {s : State} {off : Offset} {r : Reg} (hp : placeOf off = .reg r) (hoff : off.toNat % 4 = 0)
    (hb : s.seq = .idle ∨ r.allowedBusy) : s.hostAccess (.read32 off) = { s with reply := some (.data (s.readReg r)) } := by
  have hplace : placeOf (Access.read32 off).offset = .reg r := hp
  have hok : (Access.read32 off).addrRefused = false := by
    unfold Access.addrRefused
    rw [hplace]
    simp [Access.isByte, Access.isWrite, misaligned_eq_false (a := .read32 off) hoff]
  rw [State.hostAccess_performed hok (busy_false_or_allowedBusy hplace hb)]
  simp only [State.perform, hp, State.readPlace32]

/-- A performed write of a register. -/
theorem State.hostAccess_write32_reg {s : State} {off : Offset} {r : Reg} (v : Word) (hp : placeOf off = .reg r)
    (hoff : off.toNat % 4 = 0) (hr : r.readOnly = false) (hb : s.seq = .idle ∨ r.allowedBusy) :
    s.hostAccess (.write32 off v) = { s.writeReg r v with reply := some .written } := by
  have hplace : placeOf (Access.write32 off v).offset = .reg r := hp
  have hok : (Access.write32 off v).addrRefused = false := by
    unfold Access.addrRefused
    rw [hplace]
    simp [Access.isByte, hr, misaligned_eq_false (a := .write32 off v) hoff]
  rw [State.hostAccess_performed hok (busy_false_or_allowedBusy hplace hb)]
  simp only [State.perform, hp, State.writePlace32]

/-- Every register's own offset is an aligned one of the register region. -/
theorem Reg.offset_aligned (r : Reg) : r.offset.toNat < 0x180 ∧ r.offset.toNat % 4 = 0 := by
  cases r with
  | alignPos i => revert i; decide
  | penalty m => revert m; decide
  | gpoly i => revert i; decide
  | _ => decide

theorem placeOf_offset (r : Reg) : placeOf r.offset = .reg r := by
  rw [placeOf_reg r.offset_aligned.1, regAt_offset]

end Sys2Proof.Machine
end

section

/-! STATUS, the live totals, the parameter registers and the read values of the register file. -/

namespace Sys2Proof.Machine

open Sys2Proof.Terms

/-- Settles O52: STATUS is reached in every SEQ state; its word is its fields in their places. -/
theorem statusReadAndClear : Obligations.StatusReadAndClear := by
  intro s v
  have hp : placeOf 0x008#16 = .reg .status := by decide
  have hbusy : s.busy.toNat = if s.seq = .idle then 0 else 1 := by
    unfold State.busy
    split <;> simp [*]
  refine ⟨⟨s.statusWord, ?_, ?_⟩, ?_⟩
  · rw [State.hostAccess_read32_reg hp (by decide) (.inr (.inr (.inr rfl)))]
    rfl
  · rw [toNat_statusWord, hbusy]
  · rw [State.hostAccess_write32_reg v hp (by decide) rfl (.inr (.inr (.inr rfl)))]
    simp only [State.writeReg, Status.writeOneToClear_eq]

/-! ### The live totals (spec/10_state.md R38) -/

/-- The largest totals: every layout register holds 255. -/
theorem cwTotal_le (p : Params) : cwTotal p ≤ 260355 := by
  have hb1 : p.ilvB1.toNat ≤ 255 := Nat.le_of_lt_succ p.ilvB1.isLt
  have hb2 : p.ilvB2.toNat ≤ 255 := Nat.le_of_lt_succ p.ilvB2.isLt
  have hd1 : p.ilvD1.toNat ≤ 255 := Nat.le_of_lt_succ p.ilvD1.isLt
  have hk : p.rsK.toNat ≤ 255 := Nat.le_of_lt_succ p.rsK.isLt
  have h1 := Nat.mul_le_mul hb1 hd1
  have h2 := Nat.mul_le_mul hb2 (Nat.add_le_add_right hd1 1)
  have h3 := Nat.mul_le_mul (Nat.add_le_add hb1 hb2) hk
  unfold cwTotal dataTotal
  omega

theorem dataTotal_le_cwTotal (p : Params) : dataTotal p ≤ cwTotal p := Nat.le_add_right _ _

/-- An 18-bit register holds a total exactly. -/
theorem toNat_total {n : Nat} (h : n ≤ 260355) : ((BitVec.ofNat 18 n).setWidth 32).toNat = n := by
  rw [BitVec.toNat_setWidth_of_le (by decide), BitVec.toNat_ofNat, Nat.mod_eq_of_lt (by omega)]

/-- Parameters with every layout register at 255. -/
def maximalLayout : Params := { Params.reset with ilvB1 := 255, ilvD1 := 255, ilvB2 := 255, rsK := 255 }

/-- Settles O51: the totals read are exact because their maximum fits in 18 bits. -/
theorem liveTotals : Obligations.LiveTotals := by
  refine ⟨fun s hs => ⟨⟨s.readReg .cwTotal, ?_, ?_⟩, s.readReg .dataTotal, ?_, ?_⟩, fun p => ?_, ⟨maximalLayout, ?_⟩, ?_, ?_⟩
  · rw [State.hostAccess_read32_reg (r := .cwTotal) (by decide) (by decide) (.inl hs)]
  · exact toNat_total (cwTotal_le s.params)
  · rw [State.hostAccess_read32_reg (r := .dataTotal) (by decide) (by decide) (.inl hs)]
  · exact toNat_total ((dataTotal_le_cwTotal s.params).trans (cwTotal_le s.params))
  · have hmax := cwTotal_le p
    exact ⟨dataTotal_le_cwTotal p, hmax, by omega⟩
  all_goals simp only [cwTotal, dataTotal]; decide

/-! ### Parameter registers (spec/10_state.md R21, R26 to R33) -/

/-- `r` is a parameter register with a field of `k` bits. -/
inductive Reg.IsParam : Reg → Nat → Prop where
  | version : IsParam .version 6
  | level : IsParam .level 2
  | rsK : IsParam .rsK 8
  | ilvB1 : IsParam .ilvB1 8
  | ilvD1 : IsParam .ilvD1 8
  | ilvB2 : IsParam .ilvB2 8
  | rsN : IsParam .rsN 13
  | rsSrc : IsParam .rsSrc 12
  | rsDst : IsParam .rsDst 12
  | rsStride : IsParam .rsStride 12
  | gfA : IsParam .gfA 8
  | gfB : IsParam .gfB 8
  | remBits : IsParam .remBits 3
  | alignCnt : IsParam .alignCnt 3
  | alignPos (i : Fin 7) : IsParam (.alignPos i) 8

theorem Reg.IsParam.readOnly {r : Reg} {k : Nat} (hr : r.IsParam k) : r.readOnly = false := by
  cases hr <;> rfl

theorem Reg.IsParam.le_32 {r : Reg} {k : Nat} (hr : r.IsParam k) : k ≤ 32 := by
  cases hr <;> decide

theorem State.writeReg_param {r : Reg} {k : Nat} (hr : r.IsParam k) (s : State) (v : Word) :
    s.writeReg r v = { s with params := s.params.write r v } := by
  cases hr <;> rfl

/-- The one spec lemma of a write to a parameter register: every parameter register after it. -/
theorem State.readReg_writeReg_param {r r' : Reg} {k k' : Nat} (hr : r.IsParam k) (hr' : r'.IsParam k') (s : State) (v : Word) :
    (s.writeReg r v).readReg r' = if r' = r then (v.setWidth k).setWidth 32 else s.readReg r' := by
  cases hr with
  | alignPos i =>
    cases hr' with
    | alignPos j =>
      simp only [State.writeReg, State.readReg, Params.write, Fin.getElem_fin, Vector.getElem_set, Reg.alignPos.injEq, Fin.ext_iff]
      split <;> simp [*, eq_comm]
    | _ => rfl
  | _ => cases hr' <;> rfl

/-- The parameter registers with their widths, in the order of `parameterFields`. -/
def paramRegs : List (Reg × Nat) :=
  ([(.version, 6), (.level, 2), (.rsK, 8), (.ilvB1, 8), (.ilvD1, 8), (.ilvB2, 8), (.rsN, 13), (.rsSrc, 12), (.rsDst, 12),
    (.rsStride, 12), (.gfA, 8), (.gfB, 8), (.remBits, 3), (.alignCnt, 3)] : List (Reg × Nat)) ++
  (List.finRange 7).map fun i => (.alignPos i, 8)

theorem parameterFields_eq : parameterFields = paramRegs.map fun x => (x.1.offset.toNat, x.2) := by decide

theorem isParam_of_mem {x : Reg × Nat} (hx : x ∈ paramRegs) : x.1.IsParam x.2 := by
  simp only [paramRegs, List.mem_append, List.mem_cons, List.not_mem_nil, or_false, List.mem_map, List.mem_finRange, true_and] at hx
  rcases hx with
    (rfl | rfl | rfl | rfl | rfl | rfl | rfl | rfl | rfl | rfl | rfl | rfl | rfl | rfl) | ⟨i, rfl⟩ <;> constructor

/-- Every parameter field is that of a register. -/
theorem exists_param_of_mem {f : Nat × Nat} (hf : f ∈ parameterFields) : ∃ r : Reg, r.IsParam f.2 ∧ f.1 = r.offset.toNat := by
  rw [parameterFields_eq] at hf
  obtain ⟨x, hx, rfl⟩ := List.mem_map.1 hf
  exact ⟨x.1, isParam_of_mem hx, rfl⟩

/-! ### Read values -/

/-- The registers of `registerValues`, in its order. -/
def valueRegs : List Reg :=
  ([.id, .cmd, .version, .level, .rsK, .ilvB1, .ilvD1, .ilvB2] : List Reg) ++
  ([.rsN, .rsSrc, .rsDst, .rsStride, .gfA, .gfB, .gfR, .remBits, .alignCnt] : List Reg) ++
  (List.finRange 7).map Reg.alignPos ++ ([.mxVer, .maskSel, .fmtBits, .verBits, .dataModules, .rsSyndz] : List Reg) ++
  ([.penA, .penB, .penC, .penD, .darkCnt, .penMask, .gpolyK] : List Reg) ++
  (List.finRange 8).map Reg.penalty ++ (List.finRange 32).map Reg.gpoly

theorem toNat_offset_alignPos (i : Fin 7) : (Reg.alignPos i).offset.toNat = 0x04C + 4 * i.val :=
  Nat.mod_eq_of_lt (by omega)

theorem toNat_offset_penalty (m : Fin 8) : (Reg.penalty m).offset.toNat = 0x0C0 + 4 * m.val :=
  Nat.mod_eq_of_lt (by omega)

theorem toNat_offset_gpoly (i : Fin 32) : (Reg.gpoly i).offset.toNat = 0x100 + 4 * i.val :=
  Nat.mod_eq_of_lt (by omega)

theorem registerValues_eq (s : State) : registerValues s = valueRegs.map fun r => (r.offset.toNat, (s.readReg r).toNat) := by
  have hwide : ∀ {k : Nat} (x : BitVec k), k ≤ 32 → (x.setWidth 32).toNat = x.toNat := fun x hk => BitVec.toNat_setWidth_of_le hk
  simp only [registerValues, valueRegs, List.map_append, List.map_map, List.map_cons, List.map_nil, Function.comp_def,
    toNat_offset_alignPos, toNat_offset_penalty, toNat_offset_gpoly, State.readReg, toNat_maskField, toNat_bitWord]
  simp (disch := decide) only [hwide]
  rfl

/-! ### Reads and writes at a register's own offset -/

theorem State.hostAccess_read32_offset {s : State} (r : Reg) (hb : s.seq = .idle ∨ r.allowedBusy) :
    s.hostAccess (.read32 (BitVec.ofNat 16 r.offset.toNat)) = { s with reply := some (.data (s.readReg r)) } := by
  rw [BitVec.ofNat_toNat, BitVec.setWidth_eq]
  exact State.hostAccess_read32_reg (placeOf_offset r) r.offset_aligned.2 hb

theorem State.hostAccess_write32_param {s : State} {r : Reg} {k : Nat} (hr : r.IsParam k) (v : Word) (hs : s.seq = .idle) :
    s.hostAccess (.write32 (BitVec.ofNat 16 r.offset.toNat) v) =
      { s with params := s.params.write r v, reply := some .written } := by
  rw [BitVec.ofNat_toNat, BitVec.setWidth_eq,
    State.hostAccess_write32_reg v (placeOf_offset r) r.offset_aligned.2 hr.readOnly (.inl hs), State.writeReg_param hr]

/-- A field of `k` bits keeps its bits of the word written. -/
theorem setWidth_setWidth_eq_ofNat (v : Word) {k : Nat} (hk : k ≤ 32) :
    (v.setWidth k).setWidth 32 = BitVec.ofNat 32 (v.toNat % 2 ^ k) := by
  apply BitVec.eq_of_toNat_eq
  have hlt : v.toNat % 2 ^ k < 2 ^ 32 := Nat.lt_of_le_of_lt (Nat.mod_le _ _) v.isLt
  rw [BitVec.toNat_setWidth_of_le hk, BitVec.toNat_setWidth, BitVec.toNat_ofNat, Nat.mod_eq_of_lt hlt]

theorem parameter_write_and_readback {s : State} (v : Word) (hs : s.seq = .idle) {f : Nat × Nat} (hf : f ∈ parameterFields) :
    let t := s.hostAccess (.write32 (BitVec.ofNat 16 f.1) v)
    t = { s with params := t.params, reply := some .written } ∧
    (t.hostAccess (.read32 (BitVec.ofNat 16 f.1))).reply = some (.data (BitVec.ofNat 32 (v.toNat % 2 ^ f.2))) ∧
    ∀ g ∈ parameterFields, g.1 ≠ f.1 →
      (t.hostAccess (.read32 (BitVec.ofNat 16 g.1))).reply = (s.hostAccess (.read32 (BitVec.ofNat 16 g.1))).reply := by
  obtain ⟨r, hr, hoff⟩ := exists_param_of_mem hf
  intro t
  have ht : t = { s with params := s.params.write r v, reply := some .written } := by
    simp only [t, hoff]
    exact State.hostAccess_write32_param hr v hs
  have hidle : t.seq = .idle := by rw [ht]; exact hs
  have hread : ∀ {r' k'}, Reg.IsParam r' k' → t.readReg r' = if r' = r then (v.setWidth f.2).setWidth 32 else s.readReg r' := by
    intro r' k' hr'
    rw [← State.readReg_writeReg_param hr hr' s v, State.writeReg_param hr, ht]
    cases hr' <;> rfl
  refine ⟨by rw [ht], ?_, fun g hg hne => ?_⟩
  · rw [hoff, State.hostAccess_read32_offset r (.inl hidle), hread hr, if_pos rfl, setWidth_setWidth_eq_ofNat v hr.le_32]
  · obtain ⟨r', hr', hoff'⟩ := exists_param_of_mem hg
    have hrr : r' ≠ r := by
      rintro rfl
      exact hne (hoff'.trans hoff.symm)
    rw [hoff', State.hostAccess_read32_offset r' (.inl hidle), State.hostAccess_read32_offset r' (.inl hs), hread hr', if_neg hrr]

theorem read_registerValues {s : State} (hs : s.seq = .idle) {x : Nat × Nat} (hx : x ∈ registerValues s) :
    ∃ v : Word, s.hostAccess (.read32 (BitVec.ofNat 16 x.1)) = { s with reply := some (.data v) } ∧ v.toNat = x.2 := by
  rw [registerValues_eq] at hx
  obtain ⟨r, -, rfl⟩ := List.mem_map.1 hx
  exact ⟨_, State.hostAccess_read32_offset r (.inl hs), rfl⟩

theorem ctrl_write {s : State} {v : Word} (hv : v.getLsbD 31 = false) :
    s.hostAccess (.write32 0x004#16 v) =
      { s with ctrl := { ie := v.getLsbD 0, fie := v.getLsbD 1 }, reply := some .written } := by
  rw [State.hostAccess_write32_reg (r := .ctrl) v (by decide) (by decide) rfl (.inr (.inr (.inl rfl)))]
  simp only [State.writeReg, State.writeCtrl, hv, Bool.false_eq_true, if_false]

/-- R44: the reserved offsets are aligned offsets of the register region that hold no register. -/
theorem placeOf_reservedOffset : ∀ off ∈ reservedOffsets,
    placeOf (BitVec.ofNat 16 off) = .reg .reserved ∧ (BitVec.ofNat 16 off).toNat % 4 = 0 := by
  decide

/-- Settles O50: every clause is a read or a write of one register, through the address map. -/
theorem parameterReadback : Obligations.ParameterReadback := by
  refine ⟨fun s v hs f hf => parameter_write_and_readback v hs hf, fun s hs x hx => read_registerValues hs hx,
    fun s => ⟨⟨s.readReg .ctrl, ?_, toNat_readReg_ctrl s⟩, fun v hv => ctrl_write hv⟩, fun s hs off hoff => ?_⟩
  · exact State.hostAccess_read32_reg (by decide) (by decide) (.inr (.inr (.inl rfl)))
  · obtain ⟨hp, h4⟩ := placeOf_reservedOffset off hoff
    exact ⟨State.hostAccess_read32_reg hp h4 (.inl hs), fun v => State.hostAccess_write32_reg v hp h4 rfl (.inl hs)⟩

end Sys2Proof.Machine
end

section

/-! The checks of the host port, by the conditions of spec/20_memory.md R76 and R80, and the accesses they let through. -/

namespace Sys2Proof.Machine

open Sys2Proof.Terms

/-! ### The conditions of R76 and R80 -/

/-- The address map (R71), by its regions. -/
theorem placeOf_cases (off : Offset) :
    (off.toNat < 0x180 ∧ placeOf off = .reg (regAt (off.toNat / 4))) ∨
    ((0x180 ≤ off.toNat ∧ off.toNat < 0x1000 ∨ 0x3000 ≤ off.toNat ∧ off.toNat < 0x8000) ∧ placeOf off = .unmapped) ∨
    (0x1000 ≤ off.toNat ∧ off.toNat < 0x2000 ∧ placeOf off = .dbuf (off.toNat - 0x1000)) ∨
    (0x2000 ≤ off.toNat ∧ off.toNat < 0x3000 ∧ placeOf off = .cbuf (off.toNat - 0x2000)) ∨
    (0x8000 ≤ off.toNat ∧ placeOf off = .mx (off.toNat - 0x8000)) := by
  rcases Nat.lt_or_ge off.toNat 0x180 with h1 | h1
  · exact .inl ⟨h1, placeOf_reg h1⟩
  rcases Nat.lt_or_ge off.toNat 0x1000 with h2 | h2
  · exact .inr (.inl ⟨.inl ⟨h1, h2⟩, placeOf_unmapped_low h1 h2⟩)
  rcases Nat.lt_or_ge off.toNat 0x2000 with h3 | h3
  · exact .inr (.inr (.inl ⟨h2, h3, placeOf_dbuf h2 h3⟩))
  rcases Nat.lt_or_ge off.toNat 0x3000 with h4 | h4
  · exact .inr (.inr (.inr (.inl ⟨h3, h4, placeOf_cbuf h3 h4⟩)))
  rcases Nat.lt_or_ge off.toNat 0x8000 with h5 | h5
  · exact .inr (.inl ⟨.inr ⟨h4, h5⟩, placeOf_unmapped_high h4 h5⟩)
  · exact .inr (.inr (.inr (.inr ⟨h5, placeOf_mx h5⟩)))

/-- The registers that are RO stand at the offsets the table of spec/10_state.md section 2 gives them. -/
theorem readOnly_regAt : ∀ k < 96, (regAt k).readOnly = true ↔ readOnlyOffset (4 * k) := by
  unfold readOnlyOffset
  decide

/-- The registers of R80 are the first three words of the window. -/
theorem allowedBusy_regAt : ∀ k < 96, (regAt k).allowedBusy ↔ k < 3 := by
  unfold Reg.allowedBusy
  decide

theorem Access.misaligned_eq_true {a : Access} : a.misaligned = true ↔ a.isByte = false ∧ a.offset.toNat % 4 ≠ 0 := by
  simp [Access.misaligned]

/-- The port's first check is R76. -/
theorem Access.addrRefused_eq_true {a : Access} : a.addrRefused = true ↔ refusedByR76 a := by
  unfold refusedByR76
  rcases placeOf_cases a.offset with ⟨h, hp⟩ | ⟨h, hp⟩ | ⟨h, h', hp⟩ | ⟨h, h', hp⟩ | ⟨h, hp⟩
  · have hro := readOnly_regAt (a.offset.toNat / 4) (by omega)
    simp only [Access.addrRefused, hp, Bool.or_eq_true, Bool.and_eq_true, Access.misaligned_eq_true, hro, readOnlyOffset]
    grind
  all_goals
    simp only [Access.addrRefused, hp, Bool.or_eq_true, Access.misaligned_eq_true, readOnlyOffset]
    grind

theorem Access.addrRefused_eq_false {a : Access} : a.addrRefused = false ↔ ¬ refusedByR76 a := by
  rw [← Access.addrRefused_eq_true, Bool.not_eq_true]

theorem Access.allowedBusy_of_reg {a : Access} {r : Reg} (hp : placeOf a.offset = .reg r) :
    a.allowedBusy = true ↔ r.allowedBusy := by
  unfold Access.allowedBusy Reg.allowedBusy
  rw [hp]
  cases r <;> simp

/-- The port's second check is R80, for an access that the first lets through. -/
theorem Access.allowedBusy_eq_true {a : Access} (ha : ¬ refusedByR76 a) : a.allowedBusy = true ↔ performedWhileBusy a := by
  unfold refusedByR76 readOnlyOffset at ha
  unfold performedWhileBusy
  rcases placeOf_cases a.offset with ⟨h, hp⟩ | ⟨h, hp⟩ | ⟨h, h', hp⟩ | ⟨h, h', hp⟩ | ⟨h, hp⟩
  · rw [Access.allowedBusy_of_reg hp, allowedBusy_regAt _ (by omega)]
    grind
  all_goals
    simp only [Access.allowedBusy, hp]
    grind

/-- An access that neither R76 nor R80 refuses is performed. -/
theorem State.hostAccess_eq_perform {s : State} {a : Access} (ha : ¬ refusedByR76 a) (hb : s.seq = .idle ∨ performedWhileBusy a) :
    s.hostAccess a = s.perform a :=
  State.hostAccess_performed (Access.addrRefused_eq_false.2 ha) (hb.imp State.busy_eq_false.2 (Access.allowedBusy_eq_true ha).2)

/-! ### Reads and writes that are performed -/

theorem State.perform_read (s : State) {a : Access} (h : a.isWrite = false) : s.perform a = { s with reply := (s.perform a).reply } := by
  cases a with
  | read8 off => rfl
  | read32 off => rfl
  | write8 off v => cases h
  | write32 off v => cases h

/-- What a read returns does not depend on the last response. -/
theorem State.perform_read_reply (s : State) {a : Access} (h : a.isWrite = false) (r : Option Reply) :
    ({ s with reply := r }.perform a).reply = (s.perform a).reply := by
  cases a with
  | read8 off => rfl
  | read32 off => rfl
  | write8 off v => cases h
  | write32 off v => cases h

/-- The accesses R80 performs: a read, or a write to CTRL or STATUS. -/
theorem performedWhileBusy_cases {a : Access} (ha : ¬ refusedByR76 a) (hp : performedWhileBusy a) :
    a.isWrite = false ∨ ∃ v : Word, a = .write32 0x004#16 v ∨ a = .write32 0x008#16 v := by
  cases a with
  | read8 off => exact .inl rfl
  | read32 off => exact .inl rfl
  | write8 off v =>
    have hregion : (Access.write8 off v).offset.toNat < 0x180 := by rcases hp with ⟨-, h⟩ | h | h <;> omega
    exact absurd (.inr (.inr (.inl ⟨rfl, hregion⟩))) ha
  | write32 off v =>
    have hoff : off.toNat = 4 ∨ off.toNat = 8 := by simpa [performedWhileBusy, Access.isWrite, Access.offset] using hp
    have heq : ∀ off' : Offset, off.toNat = off'.toNat → Access.write32 off v = .write32 off' v := fun off' h => by
      rw [BitVec.eq_of_toNat_eq h]
    exact .inr ⟨v, hoff.imp (heq 0x004#16) (heq 0x008#16)⟩

end Sys2Proof.Machine
end

section

/-! What a step does with its input, and which steps set an access flag (spec/20_memory.md R76, R79, R80, R84, R85). -/

namespace Sys2Proof.Machine

open Sys2Proof.Terms

/-- Settles O47: CMD takes a write when the block is idle, and a write to it is an acceptance. -/
theorem commandAcceptance : Obligations.CommandAcceptance := by
  intro s w hs
  rw [State.hostAccess_write32_reg (r := .cmd) w (by decide) (by decide) rfl (.inl hs)]
  exact ⟨rfl, rfl⟩

/-- Settles O49: a performed read is `perform`, which writes the response only and does not read it. -/
theorem readsHaveNoSideEffect : Obligations.ReadsHaveNoSideEffect := by
  intro s a hread ha hb
  have hagain : { s with reply := (s.perform a).reply }.hostAccess a = { s with reply := (s.perform a).reply }.perform a :=
    State.hostAccess_eq_perform ha hb
  rw [State.hostAccess_eq_perform ha hb]
  refine ⟨s.perform_read hread, ?_⟩
  rw [s.perform_read hread, hagain, s.perform_read_reply hread]

/-! ### The step, by its input -/

theorem step_nil {s : State} (h : s.events = []) : step s = s.sequencerTurn := by
  unfold step
  rw [h]

theorem step_sequencer {s : State} {es : List Event} (h : s.events = .sequencer :: es) :
    step s = { s with events := es }.sequencerTurn := by
  unfold step
  rw [h]

theorem step_host {s : State} {a : Access} {es : List Event} (h : s.events = .host a :: es) :
    step s = .next ({ s with events := es }.hostAccess a) := by
  unfold step
  rw [h]

theorem step_hardReset {s : State} {es : List Event} (h : s.events = .hardReset :: es) :
    step s = .next { s with events := es }.startReset := by
  unfold step
  rw [h]

/-- The sequencer's turn executes the accepted word's command. -/
theorem State.sequencerTurn_decoded {s : State} {w : Word} {i : Instr} (hs : s.seq = .exec w) (hw : decode w = .ok i) :
    s.sequencerTurn = exec i s := by
  rw [State.sequencerTurn_exec hs, State.executeWord_ok hw]

/-- A placed word is the accepted word, and the sequencer moves next. -/
theorem step_withFetchWord (s : State) (w : Word) : step (s.withFetchWord 32 w.toNat) = (s.accept w).sequencerTurn := by
  have hw : BitVec.ofNat 32 (w.toNat % 2 ^ 32) = w := by rw [Nat.mod_eq_of_lt w.isLt, BitVec.ofNat_toNat, BitVec.setWidth_eq]
  unfold State.withFetchWord
  rw [hw, step_sequencer rfl]
  rfl

/-- Settles O5: the step takes the first input, and the sequencer's turn executes the accepted word. -/
theorem stepRunsAcceptedCommand : Obligations.StepRunsAcceptedCommand := by
  refine ⟨fun s w i hs hw => ⟨fun he => ?_, fun es he => ?_⟩, fun s a es he => step_host he, fun s es he => step_hardReset he,
    fun s w i hw => ?_⟩
  · exact (step_nil he).trans (State.sequencerTurn_decoded hs hw)
  · exact (step_sequencer he).trans (State.sequencerTurn_decoded hs hw)
  · exact (step_withFetchWord s w).trans (State.sequencerTurn_decoded (s.accept_seq w) hw)

/-! ### The access flags -/

/-- `st'` has neither ADDRERR nor BUSYERR set over `st`. -/
def Status.SetsNoAccessFlag (st st' : Status) : Prop :=
  (st'.addrErr = true → st.addrErr = true) ∧ (st'.busyErr = true → st.busyErr = true)

theorem Status.SetsNoAccessFlag.of_eq {st st' : Status} (ha : st'.addrErr = st.addrErr) (hb : st'.busyErr = st.busyErr) :
    st.SetsNoAccessFlag st' :=
  ⟨fun h => ha ▸ h, fun h => hb ▸ h⟩

theorem Status.setsNoAccessFlag_reset (st : Status) : st.SetsNoAccessFlag Status.reset :=
  ⟨nofun, nofun⟩

theorem Status.setsNoAccessFlag_writeOneToClear (st : Status) (v : Word) : st.SetsNoAccessFlag (st.writeOneToClear v) := by
  rw [Status.writeOneToClear_eq]
  exact ⟨fun h => (Bool.and_eq_true_iff.1 h).1, fun h => (Bool.and_eq_true_iff.1 h).1⟩

theorem State.writeReg_setsNoAccessFlag (s : State) (r : Reg) (v : Word) :
    s.status.SetsNoAccessFlag (s.writeReg r v).status := by
  cases r
  case ctrl =>
    simp only [State.writeReg, State.writeCtrl]
    split
    · exact Status.setsNoAccessFlag_reset _
    · exact .of_eq rfl rfl
  case status => exact Status.setsNoAccessFlag_writeOneToClear _ v
  all_goals exact .of_eq rfl rfl

/-- A performed access may clear a flag; it sets none. -/
theorem State.perform_setsNoAccessFlag (s : State) (a : Access) : s.status.SetsNoAccessFlag (s.perform a).status := by
  cases a with
  | read8 off => exact .of_eq rfl rfl
  | read32 off => exact .of_eq rfl rfl
  | write8 off v =>
    simp only [State.perform]
    cases placeOf off <;> exact .of_eq rfl rfl
  | write32 off v =>
    simp only [State.perform]
    cases placeOf off with
    | reg r => exact s.writeReg_setsNoAccessFlag r v
    | _ => exact .of_eq rfl rfl

/-- The sequencer's turn sets no access flag. -/
theorem State.sequencerTurn_setsNoAccessFlag {s t : State} (h : s.sequencerTurn = .next t) :
    s.status.SetsNoAccessFlag t.status := by
  rcases s.sequencerTurn_cases with ⟨-, he⟩ | ⟨-, he⟩ | ⟨w, i, -, -, he⟩ | ⟨w, e, -, -, he⟩ <;> rw [he] at h
  · cases h; exact .of_eq rfl rfl
  · cases h; exact .of_eq rfl rfl
  · obtain ⟨-, -, -, -, -, -, hbusy, haddr, -⟩ := commandWriteSets i s t h
    exact .of_eq haddr hbusy
  · cases h; exact .of_eq rfl rfl

/-- A step that sets an access flag takes a host access that R76 refuses, and sets ADDRERR, or one that R80 refuses, and sets
BUSYERR. -/
theorem step_accessFlags {s t : State} (h : step s = .next t) :
    s.status.SetsNoAccessFlag t.status ∨
    (∃ a es, s.events = .host a :: es ∧ refusedByR76 a ∧ t.status = { s.status with addrErr := true }) ∨
    (∃ a es, s.events = .host a :: es ∧ ¬ refusedByR76 a ∧ s.seq ≠ .idle ∧ ¬ performedWhileBusy a ∧
      t.status = { s.status with busyErr := true }) := by
  rcases step_cases s with ⟨-, he⟩ | ⟨es, -, he⟩ | ⟨a, es, hev, he⟩ | ⟨es, -, he⟩ <;> rw [he] at h
  · exact .inl (State.sequencerTurn_setsNoAccessFlag h)
  · exact .inl (State.sequencerTurn_setsNoAccessFlag (s := { s with events := es }) h)
  · cases h
    rcases State.hostAccess_cases { s with events := es } a with ⟨ha, heq⟩ | ⟨ha, hb, hp, heq⟩ | ⟨-, -, heq⟩ <;> rw [heq]
    · exact .inr (.inl ⟨a, es, hev, Access.addrRefused_eq_true.1 ha, rfl⟩)
    · have ha' := Access.addrRefused_eq_false.1 ha
      exact .inr (.inr ⟨a, es, hev, ha', State.busy_eq_true.1 hb, by simp [← Access.allowedBusy_eq_true ha', hp], rfl⟩)
    · exact .inl (State.perform_setsNoAccessFlag { s with events := es } a)
  · cases h
    exact .inl (Status.setsNoAccessFlag_reset _)

/-- Settles O45: R76 is the port's first check, before BUSY is looked at. -/
theorem addrErrRule : Obligations.AddrErrRule := by
  refine ⟨fun s a ha => State.hostAccess_addrRefused (Access.addrRefused_eq_true.2 ha), fun s t h hclear hset => ?_⟩
  rcases step_accessFlags h with hno | ⟨a, es, hev, ha, -⟩ | ⟨a, es, -, -, -, -, hst⟩
  · exact absurd (hno.1 hset) (by simp [hclear])
  · exact ⟨a, es, hev, ha⟩
  · simp [hst, hclear] at hset

/-- While BUSY, an access that is no soft reset leaves all but CTRL, STATUS and the response. -/
theorem State.hostAccess_busy_frame {s : State} {a : Access} (hs : s.seq ≠ .idle)
    (hsrst : ∀ v : Word, a = .write32 0x004#16 v → v.getLsbD 31 = false) :
    ∃ (c : Ctrl) (st : Status) (r : Option Reply), s.hostAccess a = { s with ctrl := c, status := st, reply := r } ∧
      st.built = s.status.built ∧ st.gpv = s.status.gpv ∧ (st.done = true → s.status.done = true) := by
  rcases s.hostAccess_cases a with ⟨-, h⟩ | ⟨-, -, -, h⟩ | ⟨ha, hb, h⟩
  · exact ⟨_, _, _, h, rfl, rfl, id⟩
  · exact ⟨_, _, _, h, rfl, rfl, id⟩
  have ha' := Access.addrRefused_eq_false.1 ha
  have hp : performedWhileBusy a := (Access.allowedBusy_eq_true ha').1 (hb.resolve_left (by simp [State.busy_eq_true.2 hs]))
  rcases performedWhileBusy_cases ha' hp with hread | ⟨v, rfl | rfl⟩
  · exact ⟨_, _, _, h.trans (s.perform_read hread), rfl, rfl, id⟩
  · exact ⟨_, _, _, ctrl_write (hsrst v rfl), rfl, rfl, id⟩
  · exact ⟨_, _, _, (statusReadAndClear s v).2, rfl, rfl, fun hd => (Bool.and_eq_true_iff.1 hd).1⟩

/-- Settles O46: R80 is the port's second check; what passes it while BUSY is a read or a write of CTRL or STATUS. -/
theorem busyRefusal : Obligations.BusyRefusal := by
  refine ⟨fun s a hs ha => ⟨fun hp => ?_, fun hp => State.hostAccess_eq_perform ha (.inr hp)⟩,
    fun s a hs hsrst => State.hostAccess_busy_frame hs hsrst, fun s t h hclear hset => ?_⟩
  · have hp' : a.allowedBusy = false := by rwa [← Bool.not_eq_true, Access.allowedBusy_eq_true ha]
    exact State.hostAccess_busyRefused (Access.addrRefused_eq_false.2 ha) (State.busy_eq_true.2 hs) hp'
  · rcases step_accessFlags h with hno | ⟨a, es, -, -, hst⟩ | ⟨a, es, hev, ha, hs, hp, -⟩
    · exact absurd (hno.2 hset) (by simp [hclear])
    · simp [hst, hclear] at hset
    · exact ⟨hs, a, es, hev, ha, hp⟩

end Sys2Proof.Machine
end

section

/-! The three memories through the window (spec/20_memory.md R71, R73, R74). -/

namespace Sys2Proof.Machine

open Sys2Proof.Terms Sys2Proof.Safety

/-! ### Four bytes as a word -/

/-- A word put together from bytes, by its shifted fields. -/
theorem append_eq_or_shiftLeft (b₀ b₁ b₂ b₃ : Byte) :
    (b₃ ++ b₂ ++ b₁ ++ b₀ : Word) =
      b₀.setWidth 32 ||| b₁.setWidth 32 <<< 8 ||| b₂.setWidth 32 <<< 16 ||| b₃.setWidth 32 <<< 24 := by
  ext i hi
  simp only [BitVec.getElem_append, BitVec.getElem_or, BitVec.getElem_setWidth, BitVec.getElem_shiftLeft]
  grind

theorem append_extractLsb' (v : Word) :
    (v.extractLsb' 24 8 ++ v.extractLsb' 16 8 ++ v.extractLsb' 8 8 ++ v.extractLsb' 0 8 : Word) = v := by
  rw [BitVec.extractLsb'_append_extractLsb'_eq_extractLsb' (show 24 = 16 + 8 from rfl),
    BitVec.extractLsb'_append_extractLsb'_eq_extractLsb' (show 16 = 8 + 8 from rfl),
    BitVec.extractLsb'_append_extractLsb'_eq_extractLsb' (show 8 = 0 + 8 from rfl), BitVec.extractLsb'_eq_self]

/-- The one spec lemma of a 4-byte write: every byte after it. -/
theorem Memory.readByte_writeWord {m : Memory} (hm : m.wf) (a : Nat) (v : Word) (x : Nat) :
    (m.writeWord a v).readByte x = if a ≤ x ∧ x < a + 4 then v.extractLsb' (8 * (x - a)) 8 else m.readByte x := by
  have h1 := Memory.wf_writeByte hm a (v.extractLsb' 0 8)
  have h2 := Memory.wf_writeByte h1 (a + 1) (v.extractLsb' 8 8)
  have h3 := Memory.wf_writeByte h2 (a + 2) (v.extractLsb' 16 8)
  rw [Memory.writeWord, Memory.readByte_writeByte h3, Memory.readByte_writeByte h2, Memory.readByte_writeByte h1,
    Memory.readByte_writeByte hm]
  by_cases hx : a ≤ x ∧ x < a + 4
  · obtain rfl | rfl | rfl | rfl : x = a ∨ x = a + 1 ∨ x = a + 2 ∨ x = a + 3 := by omega
    all_goals simp
  · grind

/-! ### The byte at a window offset -/

/-- The byte of the three memories at the window offset `o` (R71). -/
def State.memByte (s : State) (o : Nat) : Byte :=
  if o < 0x2000 then s.dbuf.readByte (o - 0x1000)
  else if o < 0x3000 then s.cbuf.readByte (o - 0x2000)
  else s.mx.readMx (o - 0x8000)

@[simp] theorem State.memByte_dbuf (s : State) {a : Nat} (h : a < 0x1000) : s.memByte (0x1000 + a) = s.dbuf.readByte a := by
  rw [State.memByte, if_pos (by omega), Nat.add_sub_cancel_left]

@[simp] theorem State.memByte_cbuf (s : State) {a : Nat} (h : a < 0x1000) : s.memByte (0x2000 + a) = s.cbuf.readByte a := by
  rw [State.memByte, if_neg (by omega), if_pos (by omega), Nat.add_sub_cancel_left]

@[simp] theorem State.memByte_mx (s : State) (j : Nat) : s.memByte (0x8000 + j) = s.mx.readMx j := by
  rw [State.memByte, if_neg (by omega), if_neg (by omega), Nat.add_sub_cancel_left]

theorem toNat_offset {o : Nat} (h : o < 0x10000) : (BitVec.ofNat 16 o).toNat = o := Nat.mod_eq_of_lt h

@[simp] theorem placeOf_dbuf_offset {a : Nat} (h : a < 0x1000) : placeOf (BitVec.ofNat 16 (0x1000 + a)) = .dbuf a := by
  have hto := toNat_offset (show 0x1000 + a < 0x10000 by omega)
  rw [placeOf_dbuf (by omega) (by omega), hto, Nat.add_sub_cancel_left]

@[simp] theorem placeOf_cbuf_offset {a : Nat} (h : a < 0x1000) : placeOf (BitVec.ofNat 16 (0x2000 + a)) = .cbuf a := by
  have hto := toNat_offset (show 0x2000 + a < 0x10000 by omega)
  rw [placeOf_cbuf (by omega) (by omega), hto, Nat.add_sub_cancel_left]

@[simp] theorem placeOf_mx_offset {j : Nat} (h : j < 0x8000) : placeOf (BitVec.ofNat 16 (0x8000 + j)) = .mx j := by
  have hto := toNat_offset (show 0x8000 + j < 0x10000 by omega)
  rw [placeOf_mx (by omega), hto, Nat.add_sub_cancel_left]

/-- An offset of the memories, as an offset into one of them. -/
theorem inMemories_cases {o : Nat} (hm : inMemories o) :
    (∃ a < 0x1000, o = 0x1000 + a) ∨ (∃ a < 0x1000, o = 0x2000 + a) ∨ ∃ j, o = 0x8000 + j := by
  unfold inMemories at hm
  rcases Nat.lt_or_ge o 0x2000 with h | h
  · exact .inl ⟨o - 0x1000, by omega⟩
  rcases Nat.lt_or_ge o 0x3000 with h' | h'
  · exact .inr (.inl ⟨o - 0x2000, by omega⟩)
  · exact .inr (.inr ⟨o - 0x8000, by omega⟩)

/-! ### Accesses to the memories -/

/-- R76 lets an access to the memories through: aligned, and for a write below MX. -/
theorem not_refusedByR76_memory {a : Access} (hm : inMemories a.offset.toNat) (halign : a.isByte = true ∨ a.offset.toNat % 4 = 0)
    (hmx : a.isWrite = true → a.offset.toNat < 0x3000) : ¬ refusedByR76 a := by
  unfold refusedByR76 readOnlyOffset
  unfold inMemories at hm
  grind

theorem State.hostAccess_memory {s : State} (hs : s.seq = .idle) {a : Access} {o : Nat} (ho : o < 0x10000)
    (hoff : a.offset = BitVec.ofNat 16 o) (hm : inMemories o) (halign : a.isByte = true ∨ o % 4 = 0)
    (hmx : a.isWrite = true → o < 0x3000) : s.hostAccess a = s.perform a := by
  have hto : a.offset.toNat = o := by rw [hoff, toNat_offset ho]
  exact State.hostAccess_eq_perform (not_refusedByR76_memory (by rwa [hto]) (by rwa [hto]) (by rwa [hto])) (.inl hs)

/-- A 1-byte read (R74). -/
theorem State.read8_memory {s : State} (hs : s.seq = .idle) {o : Nat} (hm : inMemories o) (ho : o < 0x10000) :
    (s.hostAccess (.read8 (BitVec.ofNat 16 o))).reply = some (.data ((s.memByte o).setWidth 32)) := by
  rw [State.hostAccess_memory hs ho rfl hm (.inl rfl) (by simp [Access.isWrite])]
  obtain ⟨a, ha, rfl⟩ | ⟨a, ha, rfl⟩ | ⟨j, rfl⟩ := inMemories_cases hm
  · simp only [State.perform, placeOf_dbuf_offset ha, State.readPlace8, s.memByte_dbuf ha]
  · simp only [State.perform, placeOf_cbuf_offset ha, State.readPlace8, s.memByte_cbuf ha]
  · simp only [State.perform, placeOf_mx_offset (show j < 0x8000 by omega), State.readPlace8, s.memByte_mx]

/-- A 4-byte read is little-endian (R73). -/
theorem State.read32_memory {s : State} (hs : s.seq = .idle) {o : Nat} (hm : inMemories o) (ho : o < 0x10000) (h4 : o % 4 = 0) :
    (s.hostAccess (.read32 (BitVec.ofNat 16 o))).reply =
      some (.data (s.memByte (o + 3) ++ s.memByte (o + 2) ++ s.memByte (o + 1) ++ s.memByte o)) := by
  rw [State.hostAccess_memory hs ho rfl hm (.inr h4) (by simp [Access.isWrite])]
  obtain ⟨a, ha, rfl⟩ | ⟨a, ha, rfl⟩ | ⟨j, rfl⟩ := inMemories_cases hm
  · have h3 : a + 3 < 0x1000 ∧ a + 2 < 0x1000 ∧ a + 1 < 0x1000 := by omega
    simp only [State.perform, placeOf_dbuf_offset ha, State.readPlace32, Memory.readWord, Nat.add_assoc, State.memByte_dbuf, h3, ha]
  · have h3 : a + 3 < 0x1000 ∧ a + 2 < 0x1000 ∧ a + 1 < 0x1000 := by omega
    simp only [State.perform, placeOf_cbuf_offset ha, State.readPlace32, Memory.readWord, Nat.add_assoc, State.memByte_cbuf, h3, ha]
  · simp only [State.perform, placeOf_mx_offset (show j < 0x8000 by omega), State.readPlace32, Nat.add_assoc, State.memByte_mx]

/-! ### Writes to the buffers -/

/-- `t` is `s` with the `n` bytes `f` stored from the window offset `o` of a buffer on, and the write's response. -/
structure StoresBytes (s t : State) (o n : Nat) (f : Nat → Byte) : Prop where
  dbuf : o < 0x2000 → t = { s with dbuf := t.dbuf, reply := some .written }
  cbuf : 0x2000 ≤ o → t = { s with cbuf := t.cbuf, reply := some .written }
  byte : ∀ x, inMemories x → t.memByte x = if o ≤ x ∧ x < o + n then f (x - o) else s.memByte x

theorem StoresBytes.seq {s t : State} {o n : Nat} {f : Nat → Byte} (h : StoresBytes s t o n f) : t.seq = s.seq := by
  rcases Nat.lt_or_ge o 0x2000 with ho | ho
  · rw [h.dbuf ho]
  · rw [h.cbuf ho]

/-- The condition that a byte is stored, from the start of the window and from the start of a buffer. -/
theorem stored_iff (base a n y : Nat) : (base + a ≤ base + y ∧ base + y < base + a + n) ↔ (a ≤ y ∧ y < a + n) := by omega

/-- A store to DBUF, by the bytes of DBUF. -/
theorem StoresBytes.of_dbuf {s : State} {m : Memory} {a n : Nat} {f : Nat → Byte} (h0 : a < 0x1000) (hn : a + n ≤ 0x1000)
    (h : ∀ x, m.readByte x = if a ≤ x ∧ x < a + n then f (x - a) else s.dbuf.readByte x) :
    StoresBytes s { s with dbuf := m, reply := some .written } (0x1000 + a) n f where
  dbuf _ := rfl
  cbuf hc := by omega
  byte x hx := by
    obtain ⟨y, hy, rfl⟩ | ⟨y, hy, rfl⟩ | ⟨y, rfl⟩ := inMemories_cases hx
    · simp only [State.memByte_dbuf, hy, h, stored_iff, Nat.add_sub_add_left]
    · simp only [State.memByte_cbuf, hy, if_neg (show ¬ (0x1000 + a ≤ 0x2000 + y ∧ 0x2000 + y < 0x1000 + a + n) by omega)]
    · simp only [State.memByte_mx, if_neg (show ¬ (0x1000 + a ≤ 0x8000 + y ∧ 0x8000 + y < 0x1000 + a + n) by omega)]

/-- A store to CBUF, by the bytes of CBUF. -/
theorem StoresBytes.of_cbuf {s : State} {m : Memory} {a n : Nat} {f : Nat → Byte} (hn : a + n ≤ 0x1000)
    (h : ∀ x, m.readByte x = if a ≤ x ∧ x < a + n then f (x - a) else s.cbuf.readByte x) :
    StoresBytes s { s with cbuf := m, reply := some .written } (0x2000 + a) n f where
  dbuf hd := by omega
  cbuf _ := rfl
  byte x hx := by
    obtain ⟨y, hy, rfl⟩ | ⟨y, hy, rfl⟩ | ⟨y, rfl⟩ := inMemories_cases hx
    · simp only [State.memByte_dbuf, hy, if_neg (show ¬ (0x2000 + a ≤ 0x1000 + y ∧ 0x1000 + y < 0x2000 + a + n) by omega)]
    · simp only [State.memByte_cbuf, hy, h, stored_iff, Nat.add_sub_add_left]
    · simp only [State.memByte_mx, if_neg (show ¬ (0x2000 + a ≤ 0x8000 + y ∧ 0x8000 + y < 0x2000 + a + n) by omega)]

/-- A 4-byte write of a buffer is little-endian (R73). -/
theorem State.write32_storesBytes {s : State} (hs : s.seq = .idle) (hcan : MemoriesCanonical s) {o : Nat} (hm : inMemories o)
    (ho : o < 0x3000) (h4 : o % 4 = 0) (v : Word) :
    StoresBytes s (s.hostAccess (.write32 (BitVec.ofNat 16 o) v)) o 4 fun j => v.extractLsb' (8 * j) 8 := by
  obtain ⟨hdbuf, hcbuf, -⟩ := hcan
  rw [State.hostAccess_memory hs (by omega) rfl hm (.inr h4) fun _ => ho]
  obtain ⟨a, ha, rfl⟩ | ⟨a, ha, rfl⟩ | ⟨j, rfl⟩ := inMemories_cases hm
  · simp only [State.perform, placeOf_dbuf_offset ha]
    exact .of_dbuf ha (by omega) fun x => Memory.readByte_writeWord hdbuf a v x
  · simp only [State.perform, placeOf_cbuf_offset ha]
    exact .of_cbuf (by omega) fun x => Memory.readByte_writeWord hcbuf a v x
  · omega

/-- A 1-byte write of a buffer (R74). -/
theorem State.write8_storesBytes {s : State} (hs : s.seq = .idle) (hcan : MemoriesCanonical s) {o : Nat} (hm : inMemories o)
    (ho : o < 0x3000) (b : Byte) : StoresBytes s (s.hostAccess (.write8 (BitVec.ofNat 16 o) b)) o 1 fun _ => b := by
  obtain ⟨hdbuf, hcbuf, -⟩ := hcan
  rw [State.hostAccess_memory hs (by omega) rfl hm (.inl rfl) fun _ => ho]
  have hone : ∀ {a x : Nat}, a ≤ x ∧ x < a + 1 ↔ x = a := by omega
  obtain ⟨a, ha, rfl⟩ | ⟨a, ha, rfl⟩ | ⟨j, rfl⟩ := inMemories_cases hm
  · simp only [State.perform, placeOf_dbuf_offset ha]
    exact .of_dbuf ha (by omega) fun x => (Memory.readByte_writeByte hdbuf a b x).trans (by simp only [hone])
  · simp only [State.perform, placeOf_cbuf_offset ha]
    exact .of_cbuf (by omega) fun x => (Memory.readByte_writeByte hcbuf a b x).trans (by simp only [hone])
  · omega

/-! ### Little-endian accesses -/

theorem read8_regions {s : State} (hs : s.seq = .idle) :
    (∀ a < 4096, (s.hostAccess (.read8 (BitVec.ofNat 16 (0x1000 + a)))).reply = some (.data ((s.dbuf.readByte a).setWidth 32))) ∧
    (∀ a < 4096, (s.hostAccess (.read8 (BitVec.ofNat 16 (0x2000 + a)))).reply = some (.data ((s.cbuf.readByte a).setWidth 32))) ∧
    (∀ j < 32768, (s.hostAccess (.read8 (BitVec.ofNat 16 (0x8000 + j)))).reply =
      some (.data (if j < 31329 then (s.mx.readByte j).setWidth 32 else 0#32))) := by
  refine ⟨fun a ha => ?_, fun a ha => ?_, fun j hj => ?_⟩
  · rw [State.read8_memory hs (.inl (by omega)) (by omega), s.memByte_dbuf ha]
  · rw [State.read8_memory hs (.inl (by omega)) (by omega), s.memByte_cbuf ha]
  · rw [State.read8_memory hs (.inr (by omega)) (by omega), s.memByte_mx, Memory.readMx, Config.mxCells]
    split <;> rfl

theorem StoresBytes.memByte_stored {s t : State} {o n : Nat} {f : Nat → Byte} (h : StoresBytes s t o n f) {j : Nat} (hj : j < n)
    (hm : inMemories (o + j)) : t.memByte (o + j) = f j := by
  rw [h.byte _ hm, if_pos (by omega), Nat.add_sub_cancel_left]

theorem StoresBytes.read8_stored {s t : State} {o n : Nat} {f : Nat → Byte} (h : StoresBytes s t o n f) (hs : s.seq = .idle) {j : Nat}
    (hj : j < n) (hm : inMemories (o + j)) (ho : o + j < 0x10000) :
    (t.hostAccess (.read8 (BitVec.ofNat 16 (o + j)))).reply = some (.data ((f j).setWidth 32)) := by
  rw [State.read8_memory (h.seq.trans hs) hm ho, h.memByte_stored hj hm]

theorem StoresBytes.read8_other {s t : State} {o n : Nat} {f : Nat → Byte} (h : StoresBytes s t o n f) (hs : s.seq = .idle) {x : Nat}
    (hm : inMemories x) (hx : x < 0x10000) (hne : ¬ (o ≤ x ∧ x < o + n)) :
    (t.hostAccess (.read8 (BitVec.ofNat 16 x))).reply = (s.hostAccess (.read8 (BitVec.ofNat 16 x))).reply := by
  rw [State.read8_memory (h.seq.trans hs) hm hx, State.read8_memory hs hm hx, h.byte x hm, if_neg hne]

/-- The bytes of an aligned word of the memories lie in the memories. -/
theorem inMemories_word {o : Nat} (hm : inMemories o) (ho : o < 0x10000) (h4 : o % 4 = 0) :
    ∀ j < 4, inMemories (o + j) ∧ o + j < 0x10000 := by
  unfold inMemories at *
  omega

/-- A 4-byte read after a 4-byte write of the same offset. -/
theorem read32_write32_memory {s : State} (hs : s.seq = .idle) (hcan : MemoriesCanonical s) {o : Nat} (hm : inMemories o)
    (ho : o < 0x3000) (h4 : o % 4 = 0) (v : Word) :
    ((s.hostAccess (.write32 (BitVec.ofNat 16 o) v)).hostAccess (.read32 (BitVec.ofNat 16 o))).reply = some (.data v) := by
  have hst := State.write32_storesBytes hs hcan hm ho h4 v
  have hbyte := fun j hj => hst.memByte_stored hj (inMemories_word hm (by omega) h4 j hj).1
  have h0 : State.memByte _ o = _ := hbyte 0 (by decide)
  rw [State.read32_memory (hst.seq.trans hs) hm (by omega) h4, hbyte 3 (by decide), hbyte 2 (by decide), hbyte 1 (by decide), h0]
  exact congrArg (some ∘ Reply.data) (append_extractLsb' v)

/-- Settles O48: every access to the memories is said by the bytes at window offsets, and a write of either width stores bytes. -/
theorem littleEndian : Obligations.LittleEndian := by
  refine ⟨fun s hs => read8_regions hs, fun s off hs hcan hm hlt h4 => ?_⟩
  have hin := inMemories_word hm hlt h4
  have hread := fun j hj => State.read8_memory hs (hin j hj).1 (hin j hj).2
  refine ⟨⟨_, _, _, _, hread 0 (by decide), hread 1 (by decide), hread 2 (by decide), hread 3 (by decide), ?_⟩,
    fun hbuf v => ?_, fun hbuf j hj b => ?_⟩
  · exact (State.read32_memory hs hm hlt h4).trans (by rw [append_eq_or_shiftLeft]; rfl)
  · have hst := State.write32_storesBytes hs hcan hm hbuf h4 v
    exact ⟨read32_write32_memory hs hcan hm hbuf h4 v, ⟨hst.dbuf, hst.cbuf⟩,
      fun j hj => hst.read8_stored hs hj (hin j hj).1 (hin j hj).2, fun o ho ho' hno => hst.read8_other hs ho ho' hno⟩
  · obtain ⟨hmj, hltj⟩ := hin j hj
    have hst := State.write8_storesBytes hs hcan hmj (by unfold inMemories at hm; omega) b
    exact ⟨hst.read8_stored hs (j := 0) (by decide) hmj hltj, ⟨fun h => hst.dbuf (by omega), fun h => hst.cbuf (by omega)⟩,
      fun o ho ho' hne => hst.read8_other hs ho ho' (by omega)⟩

end Sys2Proof.Machine
end

section

/-! The decoder and the encoder, field by field (spec/30_encoding.md R100 to R104). -/

namespace Sys2Proof

/-! ### The fields of a word (R100) -/

theorem append_fields (w : Word) : (rsvField w ++ argField w) ++ opField w = w := by
  unfold rsvField argField opField
  rw [BitVec.extractLsb'_append_extractLsb'_eq_extractLsb' (show 16 = 8 + 8 from rfl),
    BitVec.extractLsb'_append_extractLsb'_eq_extractLsb' (show 8 = 0 + 8 from rfl), BitVec.extractLsb'_eq_self]

theorem opField_toNat (w : Word) : (opField w).toNat = w.toNat % 256 := by
  simp [opField]

theorem argField_toNat (w : Word) : (argField w).toNat = w.toNat / 256 % 256 := by
  simp [argField, Nat.shiftRight_eq_div_pow]

theorem rsvField_eq_zero {w : Word} : rsvField w = 0#16 ↔ w.toNat / 65536 = 0 := by
  rw [← BitVec.toNat_inj]
  simp only [rsvField, BitVec.extractLsb'_toNat, Nat.shiftRight_eq_div_pow, BitVec.toNat_ofNat]
  omega

/-- A word is the encoding of the command whose OP and ARG it holds, if RSV = 0. -/
theorem encode_eq_iff {i : Instr} {w : Word} : encode i = w ↔ rsvField w = 0#16 ∧ i.op = opField w ∧ i.arg = argField w := by
  constructor
  · rintro rfl
    obtain ⟨hop, harg, hrsv⟩ : Laws.EncodeFields.Statement i := Laws.EncodeFields.fields_append i.arg i.op
    exact ⟨hrsv, hop.symm, harg.symm⟩
  · rintro ⟨hrsv, hop, harg⟩
    unfold encode
    rw [hop, harg, ← hrsv, append_fields]

/-! ### ARG (R102) -/

theorem decodePlain_eq_ok {arg : Byte} {i j : Instr} : decodePlain arg j = .ok i ↔ arg = 0#8 ∧ j = i := by
  unfold decodePlain
  split <;> simp [*]

theorem maskArg_ok_iff (arg : Byte) : arg.extractLsb' 3 5 = 0#5 ↔ arg.toNat < 8 := by
  rw [← BitVec.toNat_inj]
  simp only [BitVec.extractLsb'_toNat, Nat.shiftRight_eq_div_pow, BitVec.toNat_ofNat]
  omega

theorem maskArg_id {arg : Byte} (h : arg.toNat < 8) : (arg.extractLsb' 0 3).toNat = arg.toNat := by
  simp [Nat.mod_eq_of_lt h]

theorem decodeMask_eq_ok {arg : Byte} {f : Nat → Instr} {i : Instr} :
    decodeMask arg f = .ok i ↔ arg.toNat < 8 ∧ f arg.toNat = i := by
  unfold decodeMask
  split
  · next h =>
    have hlt := (maskArg_ok_iff arg).1 h
    simp [maskArg_id hlt, hlt]
  · next h => simp [← maskArg_ok_iff, h]

theorem toNat_ofNat_maskId {m : Nat} (h : m < 8) : (BitVec.ofNat 8 m).toNat = m :=
  Nat.mod_eq_of_lt (by omega)

theorem decodeMask_ofNat {m : Nat} (h : m < 8) (f : Nat → Instr) : decodeMask (BitVec.ofNat 8 m) f = .ok (f m) := by
  rw [decodeMask_eq_ok, toNat_ofNat_maskId h]
  exact ⟨h, rfl⟩

/-! ### The opcode map (R101) -/

/-- A row of the map without an argument: what is decoded has the row's OP, and ARG = 0. -/
theorem decodePlain_fields {op arg : Byte} {i j : Instr} (hwf : j.wellFormed = true) (harg : j.arg = 0#8)
    (hop : op.toNat = j.op.toNat) (h : decodePlain arg j = .ok i) : i.wellFormed = true ∧ i.op = op ∧ i.arg = arg := by
  obtain ⟨rfl, rfl⟩ := decodePlain_eq_ok.1 h
  exact ⟨hwf, BitVec.eq_of_toNat_eq hop.symm, harg⟩

/-- A row of the map with a mask id: what is decoded has the row's OP, and the id as ARG. -/
theorem decodeMask_fields {op arg : Byte} {f : Nat → Instr} {i : Instr} (hwf : ∀ m < 8, (f m).wellFormed = true)
    (harg : ∀ m, (f m).arg = BitVec.ofNat 8 m) (hop : ∀ m, op.toNat = (f m).op.toNat) (h : decodeMask arg f = .ok i) :
    i.wellFormed = true ∧ i.op = op ∧ i.arg = arg := by
  obtain ⟨hlt, rfl⟩ := decodeMask_eq_ok.1 h
  exact ⟨hwf _ hlt, BitVec.eq_of_toNat_eq (hop _).symm, by rw [harg, BitVec.ofNat_toNat, BitVec.setWidth_eq]⟩

/-- The decoder of the opcode map: OP and ARG are those of a command that can be encoded. -/
theorem decodeOp_eq_ok {op arg : Byte} {i : Instr} :
    decodeOp op arg = .ok i ↔ i.wellFormed = true ∧ i.op = op ∧ i.arg = arg := by
  constructor
  · intro h
    unfold decodeOp at h
    split at h
    case h_10 hop => exact decodeMask_fields (f := .maskScore) (by decide) (fun _ => rfl) (fun _ => hop) h
    case h_11 hop => exact decodeMask_fields (f := .maskCommit) (by decide) (fun _ => rfl) (fun _ => hop) h
    case h_14 => cases h
    all_goals exact decodePlain_fields rfl rfl ‹_› h
  · rintro ⟨hwf, rfl, rfl⟩
    cases i with
    | maskScore m => exact decodeMask_ofNat (of_decide_eq_true hwf) _
    | maskCommit m => exact decodeMask_ofNat (of_decide_eq_true hwf) _
    | _ => rfl

/-! ### The decoder (R104) -/

theorem decode_eq_ok_iff_fields {w : Word} {i : Instr} :
    decode w = .ok i ↔ rsvField w = 0#16 ∧ i.wellFormed = true ∧ i.op = opField w ∧ i.arg = argField w := by
  rw [← decodeOp_eq_ok]
  unfold decode
  split <;> simp_all

/-- The words the decoder reads as a command are the encodings of the commands that can be encoded. -/
theorem decode_eq_ok_iff {w : Word} {i : Instr} : decode w = .ok i ↔ i.wellFormed = true ∧ encode i = w := by
  rw [decode_eq_ok_iff_fields, encode_eq_iff, and_left_comm]

theorem decode_encode {i : Instr} (h : i.wellFormed = true) : decode (encode i) = .ok i :=
  decode_eq_ok_iff.2 ⟨h, rfl⟩

/-- Settles O1: the legal words are the encodings of the well-formed commands, each read as its command. -/
theorem decodeEncodeInverse : Obligations.DecodeEncodeInverse :=
  ⟨fun _ h => decode_encode h, fun _ _ h => decode_eq_ok_iff.1 h⟩

theorem encode_maskScore : ∀ m < 8, encode (.maskScore m) = BitVec.ofNat 32 (0x50 + m * 0x100) := by decide

theorem encode_maskCommit : ∀ m < 8, encode (.maskCommit m) = BitVec.ofNat 32 (0x51 + m * 0x100) := by decide

/-- Settles O3: each word of the table is the encoding of its row's command. -/
theorem tableWordsDecode : Obligations.TableWordsDecode :=
  ⟨decode_encode (i := .nop) rfl, decode_encode (i := .gfMul) rfl, decode_encode (i := .gfExp) rfl,
    decode_encode (i := .gfLog) rfl, decode_encode (i := .genPoly) rfl, decode_encode (i := .rsBlock) rfl,
    decode_encode (i := .rsSynd) rfl, decode_encode (i := .interleave) rfl, decode_encode (i := .matrixBuild) rfl,
    fun m hm => encode_maskScore m hm ▸ decode_encode (decide_eq_true hm),
    fun m hm => encode_maskCommit m hm ▸ decode_encode (decide_eq_true hm),
    decode_encode (i := .maskAuto) rfl, decode_encode (i := .encodeAll) rfl⟩

end Sys2Proof
end

section

/-! Which words are legal, and how many (spec/30_encoding.md R104, R105). -/

namespace Sys2Proof

open Sys2Proof.Machine Sys2Proof.Terms

/-! ### The commands that have a word (R105) -/

/-- The commands without an argument, in the order of R101. -/
def plainInstrs : List Instr :=
  [.nop, .gfMul, .gfExp, .gfLog, .genPoly, .rsBlock, .rsSynd, .interleave, .matrixBuild, .maskAuto, .encodeAll]

/-- The mask commands with every mask id. -/
def maskInstrs : List Instr := (List.range 8).map .maskScore ++ (List.range 8).map .maskCommit

theorem mem_maskInstrs {i : Instr} : i ∈ maskInstrs ↔ ∃ m < 8, i = .maskScore m ∨ i = .maskCommit m := by
  simp only [maskInstrs, List.mem_append, List.mem_map, List.mem_range]
  grind

theorem wellFormed_iff_mem {i : Instr} : i.wellFormed = true ↔ i ∈ plainInstrs ++ maskInstrs := by
  cases i with
  | maskScore m => simp [Instr.wellFormed, maskIdOk, plainInstrs, mem_maskInstrs]
  | maskCommit m => simp [Instr.wellFormed, maskIdOk, plainInstrs, mem_maskInstrs]
  | _ => simp [Instr.wellFormed, plainInstrs]

theorem plainInstrs_arg : ∀ i ∈ plainInstrs, i.arg = 0#8 := by decide

/-! ### The legal words -/

theorem legal_iff_mem {w : Word} : (∃ i, decode w = .ok i) ↔ w ∈ plainInstrs.map encode ++ maskInstrs.map encode := by
  simp only [decode_eq_ok_iff, wellFormed_iff_mem, ← List.map_append, List.mem_map]

/-- Different well-formed commands have different words, since the decoder reads them back. -/
theorem legalWords_nodup : (plainInstrs.map encode ++ maskInstrs.map encode).Nodup := by
  have hinj : ∀ i ∈ plainInstrs ++ maskInstrs, ∀ j ∈ plainInstrs ++ maskInstrs, encode i = encode j → i = j :=
    fun i hi j hj h => by
      have hi' := decode_encode (wellFormed_iff_mem.2 hi)
      rw [h, decode_encode (wellFormed_iff_mem.2 hj)] at hi'
      exact (Except.ok.inj hi').symm
  rw [← List.map_append]
  exact List.Nodup.map_on hinj (by decide)

/-- OP and ARG of the commands that have a word, as numbers. -/
theorem exists_op_arg_iff {op arg : Byte} :
    (∃ i : Instr, i.wellFormed = true ∧ i.op = op ∧ i.arg = arg) ↔
      (op.toNat ∈ [0x00, 0x10, 0x11, 0x12, 0x20, 0x21, 0x22, 0x30, 0x40, 0x52, 0x60] ∧ arg.toNat = 0) ∨
        (op.toNat ∈ [0x50, 0x51] ∧ arg.toNat < 8) := by
  have hplain : [0x00, 0x10, 0x11, 0x12, 0x20, 0x21, 0x22, 0x30, 0x40, 0x52, 0x60] = plainInstrs.map (·.op.toNat) := rfl
  rw [hplain, List.mem_map]
  constructor
  · rintro ⟨i, hwf, rfl, rfl⟩
    rcases List.mem_append.1 (wellFormed_iff_mem.1 hwf) with hi | hi
    · exact .inl ⟨⟨i, hi, rfl⟩, congrArg _ (plainInstrs_arg i hi)⟩
    · obtain ⟨m, hm, rfl | rfl⟩ := mem_maskInstrs.1 hi
      · exact .inr ⟨List.mem_cons_self, (toNat_ofNat_maskId hm).trans_lt hm⟩
      · exact .inr ⟨List.mem_cons_of_mem _ List.mem_cons_self, (toNat_ofNat_maskId hm).trans_lt hm⟩
  · rintro (⟨⟨i, hi, hop⟩, harg⟩ | ⟨hop, harg⟩)
    · exact ⟨i, wellFormed_iff_mem.2 (List.mem_append_left _ hi), BitVec.eq_of_toNat_eq hop,
        (plainInstrs_arg i hi).trans (BitVec.eq_of_toNat_eq harg.symm)⟩
    · have hid : BitVec.ofNat 8 arg.toNat = arg := by rw [BitVec.ofNat_toNat, BitVec.setWidth_eq]
      rcases List.mem_pair.1 hop with hop | hop
      · exact ⟨.maskScore arg.toNat, decide_eq_true harg, BitVec.eq_of_toNat_eq hop.symm, hid⟩
      · exact ⟨.maskCommit arg.toNat, decide_eq_true harg, BitVec.eq_of_toNat_eq hop.symm, hid⟩

theorem legal_iff {w : Word} : (∃ i, decode w = .ok i) ↔
    w.toNat / 65536 = 0 ∧
      ((w.toNat % 256 ∈ [0x00, 0x10, 0x11, 0x12, 0x20, 0x21, 0x22, 0x30, 0x40, 0x52, 0x60] ∧ w.toNat / 256 % 256 = 0) ∨
        (w.toNat % 256 ∈ [0x50, 0x51] ∧ w.toNat / 256 % 256 < 8)) := by
  simp only [decode_eq_ok_iff_fields, exists_and_left, exists_op_arg_iff, rsvField_eq_zero, opField_toNat, argField_toNat]

/-- An accepted word that is no command faults ILLEGAL_CMD. -/
theorem sequencerTurn_illegal {s : State} {w : Word} (hs : s.seq = .exec w) (hw : ∀ i, decode w ≠ .ok i) :
    s.sequencerTurn = .next (faulted 0x01#8 s) := by
  rw [State.sequencerTurn_exec hs]
  rcases hd : decode w with e | i
  · exact State.executeWord_error hd
  · exact absurd hd (hw i)

/-- Settles O2: the legal words are the encodings of 11 commands without an argument and of 16 mask commands. -/
theorem legalWords : Obligations.LegalWords := by
  refine ⟨fun w => legal_iff, ⟨plainInstrs.map encode, maskInstrs.map encode, rfl, rfl, legalWords_nodup, ?_, ?_,
    fun w => legal_iff_mem⟩, fun s w => sequencerTurn_illegal⟩
  · refine List.forall_mem_map.2 fun i hi => ⟨i, decode_encode (wellFormed_iff_mem.2 (List.mem_append_left _ hi)), ?_⟩
    rintro (⟨m, rfl⟩ | ⟨m, rfl⟩) <;> simp [plainInstrs] at hi
  · refine List.forall_mem_map.2 fun i hi => ?_
    have hdec := decode_encode (wellFormed_iff_mem.2 (List.mem_append_right _ hi))
    obtain ⟨m, hm, rfl | rfl⟩ := mem_maskInstrs.1 hi
    · exact ⟨m, hm, .inl hdec⟩
    · exact ⟨m, hm, .inr hdec⟩

end Sys2Proof
end

section

/-! The field GF(256): the tables EXP and LOG, and the laws of ⊗ (spec/40_gf_arith.md R121 to R125). -/

namespace Sys2Proof.Machine

open Sys2Proof.Terms

/-! ### Bytes as sums of single bits -/

/-- Every byte is a ⊕ of the values with one bit. -/
theorem byte_xor_induction {P : Byte → Prop} (zero : P 0#8) (bit : ∀ n < 8, P (BitVec.twoPow 8 n))
    (xor : ∀ a b, P a → P b → P (a ^^^ b)) (a : Byte) : P a := by
  have hsum : ∀ b : Byte, b = ((List.range 8).filter b.getLsbD).foldl (fun acc n => acc ^^^ BitVec.twoPow 8 n) 0#8 := by decide
  rw [hsum a]
  refine List.foldlRecOn _ _ zero fun acc hacc n hn => xor _ _ hacc (bit n ?_)
  exact List.mem_range.1 (List.mem_of_mem_filter hn)

/-- Two functions on bytes that turn ⊕ into ⊕ are equal when they agree on the values with one bit. -/
theorem eq_of_xor_additive {f g : Byte → Nat} (hf : ∀ a b, f (a ^^^ b) = f a ^^^ f b) (hg : ∀ a b, g (a ^^^ b) = g a ^^^ g b)
    (hbit : ∀ n < 8, f (BitVec.twoPow 8 n) = g (BitVec.twoPow 8 n)) (a : Byte) : f a = g a := by
  induction a using byte_xor_induction with
  | zero => rw [← BitVec.xor_self (x := 0#8), hf, hg, Nat.xor_self, Nat.xor_self]
  | bit n hn => exact hbit n hn
  | xor a b ha hb => rw [hf, hg, ha, hb]

/-! ### Multiplication by x (R121) -/

theorem ite_xor_zero {w : Nat} (p q : Bool) (c : BitVec w) :
    (if p ^^ q then c else 0#w) = (if p then c else 0#w) ^^^ (if q then c else 0#w) := by
  cases p <;> cases q <;> simp

theorem xtime_xor (a b : Byte) : xtime (a ^^^ b) = xtime a ^^^ xtime b := by
  simp only [xtime, BitVec.setWidth_xor, BitVec.shiftLeft_xor_distrib, BitVec.getLsbD_xor, ite_xor_zero]
  ac_rfl

theorem toNat_xtime (v : Byte) :
    (xtime v).toNat = ((2 * v.toNat) ^^^ (if 128 ≤ v.toNat then 0x11D else 0x000)) % 256 := by
  decide +revert

@[simp] theorem iterate_xtime_zero (n : Nat) : xtime^[n] 0#8 = 0#8 :=
  Function.iterate_fixed rfl n

theorem iterate_xtime_xor (n : Nat) (a b : Byte) : xtime^[n] (a ^^^ b) = xtime^[n] a ^^^ xtime^[n] b :=
  Function.Semiconj₂.iterate xtime_xor n a b

/-- α^255 = 1. -/
theorem isPeriodicPt_xtime : Function.IsPeriodicPt xtime 255 0x01#8 := by decide +kernel

/-- α has order 255: no power of it with a smaller divisor of 255 is 1. -/
theorem minimalPeriod_xtime : Function.minimalPeriod xtime 0x01#8 = 255 := by
  have hproper : ∀ d ∈ Nat.properDivisors 255, ¬ Function.IsPeriodicPt xtime d 0x01#8 := by decide +kernel
  by_contra hne
  have hdvd := isPeriodicPt_xtime.minimalPeriod_dvd
  have hlt : Function.minimalPeriod xtime 0x01#8 < 255 := lt_of_le_of_ne (Nat.le_of_dvd (by decide) hdvd) hne
  exact hproper _ (Nat.mem_properDivisors.2 ⟨hdvd, hlt⟩) (Function.isPeriodicPt_minimalPeriod _ _)

/-! ### The table EXP (R121) -/

theorem xtimesFrom_eq_iterate (v : Byte) (n : Nat) : xtimesFrom v n = List.iterate xtime v n := by
  induction n generalizing v with
  | zero => rfl
  | succ n ih => rw [xtimesFrom, ih, List.iterate]

@[simp] theorem length_expTable : expTable.length = 255 := by
  rw [expTable, xtimesFrom_eq_iterate, List.length_iterate]

theorem expTable_getElem {i : Nat} (h : i < expTable.length) : expTable[i] = xtime^[i] 0x01#8 := by
  simp only [expTable, xtimesFrom_eq_iterate, List.getElem_iterate]

theorem gfExp_eq_getElem (i : Nat) : gfExp i = expTable[i % 255]'(by rw [length_expTable]; exact Nat.mod_lt _ (by decide)) :=
  List.getD_eq_getElem _ _ _

/-- α^i, for every index: 1 multiplied i times by x. -/
theorem gfExp_eq_iterate (i : Nat) : gfExp i = xtime^[i] 0x01#8 := by
  rw [gfExp_eq_getElem, expTable_getElem, isPeriodicPt_xtime.iterate_mod_apply]

@[simp] theorem gfExp_zero : gfExp 0 = 0x01#8 := gfExp_eq_iterate 0

theorem gfExp_succ (i : Nat) : gfExp (i + 1) = xtime (gfExp i) := by
  rw [gfExp_eq_iterate, gfExp_eq_iterate, Function.iterate_succ_apply']

@[simp] theorem gfExp_mod (i : Nat) : gfExp (i % 255) = gfExp i := by
  rw [gfExp, gfExp, Nat.mod_mod]

theorem gfExp_add (i j : Nat) : gfExp (i + j) = xtime^[i] (gfExp j) := by
  rw [gfExp_eq_iterate, gfExp_eq_iterate, Function.iterate_add_apply]

@[simp] theorem gfExp_ne_zero (i : Nat) : gfExp i ≠ 0#8 := by
  intro h
  have hone : gfExp (254 * i + i) = 0x01#8 := by
    rw [← gfExp_mod, show (254 * i + i) % 255 = 0 by omega, gfExp_zero]
  rw [gfExp_add, h, iterate_xtime_zero] at hone
  exact absurd hone (by decide)

/-! ### The table LOG (R122) -/

theorem nodup_expTable : expTable.Nodup := by
  rw [expTable, xtimesFrom_eq_iterate, ← List.range_map_iterate]
  refine List.Nodup.map_on (fun i hi j hj h => ?_) List.nodup_range
  rw [List.mem_range, ← minimalPeriod_xtime] at hi hj
  exact Function.iterate_injOn_Iio_minimalPeriod hi hj h

theorem gfLog_gfExp (i : Nat) : gfLog (gfExp i) = i % 255 := by
  rw [gfExp_eq_getElem]
  exact nodup_expTable.idxOf_getElem _ _

/-- EXP holds 255 different bytes, none of them 0: all the non-zero ones. -/
theorem mem_expTable {a : Byte} (ha : a ≠ 0#8) : a ∈ expTable := by
  have hzero : 0#8 ∉ expTable := fun h => by
    obtain ⟨i, hi, h0⟩ := List.mem_iff_getElem.1 h
    rw [expTable_getElem, ← gfExp_eq_iterate] at h0
    exact gfExp_ne_zero i h0
  have hsub : expTable.toFinset ⊆ Finset.univ.erase 0#8 := fun x hx =>
    Finset.mem_erase.2 ⟨fun h0 => hzero (h0 ▸ List.mem_toFinset.1 hx), Finset.mem_univ x⟩
  have hcard : (Finset.univ.erase 0#8).card ≤ expTable.toFinset.card := by
    rw [List.toFinset_card_of_nodup nodup_expTable, length_expTable]
    simp [← FinEnum.card_eq_fintypeCard]
  rw [← List.mem_toFinset, Finset.eq_of_subset_of_card_le hsub hcard]
  exact Finset.mem_erase.2 ⟨ha, Finset.mem_univ a⟩

theorem gfLog_lt {a : Byte} (ha : a ≠ 0#8) : gfLog a < 255 :=
  length_expTable ▸ List.idxOf_lt_length_of_mem (mem_expTable ha)

theorem gfExp_gfLog {a : Byte} (ha : a ≠ 0#8) : gfExp (gfLog a) = a := by
  simp only [gfExp_eq_getElem, Nat.mod_eq_of_lt (gfLog_lt ha)]
  exact List.getElem_idxOf _

/-- Settles O7: EXP holds the iterates of xtime, which has period 255 at 1, and LOG their places. -/
theorem expLogTables : Obligations.ExpLogTables := by
  refine ⟨gfExp_zero, fun i _ => by rw [gfExp_succ, toNat_xtime], fun i => (gfExp_mod i).symm, fun a ha =>
    ⟨gfLog_lt ha, gfExp_gfLog ha, ?_⟩⟩
  rintro i hi rfl
  rw [gfLog_gfExp, Nat.mod_eq_of_lt hi]

/-! ### The laws of ⊗ (R125) -/

@[simp] theorem gfMul_zero_left (a : Byte) : gfMul 0#8 a = 0#8 := if_pos (.inl rfl)

@[simp] theorem gfMul_zero_right (a : Byte) : gfMul a 0#8 = 0#8 := if_pos (.inr rfl)

theorem gfMul_gfExp (i j : Nat) : gfMul (gfExp i) (gfExp j) = gfExp (i + j) := by
  have hne : ¬ (gfExp i = 0#8 ∨ gfExp j = 0#8) := by simp
  rw [gfMul, if_neg hne, gfLog_gfExp, gfLog_gfExp, ← Nat.add_mod, gfExp_mod]

theorem eq_zero_or_eq_gfExp (a : Byte) : a = 0#8 ∨ ∃ i, a = gfExp i :=
  or_iff_not_imp_left.2 fun ha => ⟨gfLog a, (gfExp_gfLog ha).symm⟩

theorem gfMul_comm (a b : Byte) : gfMul a b = gfMul b a := by
  simp only [gfMul, or_comm, Nat.add_comm]

theorem gfMul_assoc (a b c : Byte) : gfMul (gfMul a b) c = gfMul a (gfMul b c) := by
  obtain rfl | ⟨i, rfl⟩ := eq_zero_or_eq_gfExp a
  · simp
  obtain rfl | ⟨j, rfl⟩ := eq_zero_or_eq_gfExp b
  · simp
  obtain rfl | ⟨k, rfl⟩ := eq_zero_or_eq_gfExp c
  · simp
  simp only [gfMul_gfExp, Nat.add_assoc]

/-- Multiplication by α^i is i multiplications by x. -/
theorem gfMul_gfExp_left (i : Nat) (b : Byte) : gfMul (gfExp i) b = xtime^[i] b := by
  obtain rfl | ⟨j, rfl⟩ := eq_zero_or_eq_gfExp b
  · simp
  · rw [gfMul_gfExp, gfExp_add]

@[simp] theorem gfMul_one_left (a : Byte) : gfMul 0x01#8 a = a := gfMul_gfExp_left 0 a

@[simp] theorem gfMul_one_right (a : Byte) : gfMul a 0x01#8 = a := by rw [gfMul_comm, gfMul_one_left]

theorem gfMul_xor_right (a b c : Byte) : gfMul a (b ^^^ c) = gfMul a b ^^^ gfMul a c := by
  obtain rfl | ⟨i, rfl⟩ := eq_zero_or_eq_gfExp a
  · simp
  · simp only [gfMul_gfExp_left, iterate_xtime_xor]

theorem gfMul_xor_left (a b c : Byte) : gfMul (a ^^^ b) c = gfMul a c ^^^ gfMul b c := by
  simp only [gfMul_comm _ c, gfMul_xor_right]

theorem gfMul_inverse {a : Byte} (ha : a ≠ 0#8) : gfMul a (gfExp ((255 - gfLog a) % 255)) = 0x01#8 := by
  have hlog := gfLog_lt ha
  calc gfMul a (gfExp ((255 - gfLog a) % 255))
    _ = gfMul (gfExp (gfLog a)) (gfExp (255 - gfLog a)) := by rw [gfExp_gfLog ha, gfExp_mod]
    _ = gfExp (255 % 255) := by rw [gfMul_gfExp, gfExp_mod, Nat.add_sub_cancel' hlog.le]
    _ = 0x01#8 := gfExp_zero

/-! ### ⊗ as the reduced carry-less product (R125) -/

theorem carryless_xor_left (a a' b : Nat) : carryless (a ^^^ a') b = carryless a b ^^^ carryless a' b := by
  refine List.foldl_hom₂ (a := 0) (b := 0) (f := (· ^^^ ·)) _ _ _ _ fun x y n => ?_
  rw [Nat.shiftLeft_xor_distrib]
  cases b.testBit n
  · rfl
  · simp only [if_true]; ac_rfl

/-- One conditional ⊕ of a fold, for conditions that are themselves ⊕ed. -/
theorem xorIf_xor (p q : Bool) (x y c : Nat) :
    (if p then x ^^^ c else x) ^^^ (if q then y ^^^ c else y) = if p ^^ q then (x ^^^ y) ^^^ c else x ^^^ y := by
  cases p <;> cases q <;> simp [Nat.xor_comm, Nat.xor_left_comm]

theorem carryless_xor_right (a b b' : Nat) : carryless a (b ^^^ b') = carryless a b ^^^ carryless a b' := by
  refine List.foldl_hom₂ (a := 0) (b := 0) (f := (· ^^^ ·)) _ _ _ _ fun x y n => ?_
  rw [Nat.testBit_xor, xorIf_xor]

theorem reduce11D_xor (x y : Nat) : reduce11D (x ^^^ y) = reduce11D x ^^^ reduce11D y := by
  refine List.foldl_hom₂ (f := (· ^^^ ·)) _ _ _ _ _ _ fun x y n => ?_
  rw [Nat.testBit_xor, xorIf_xor]

/-- Both sides are bilinear, so the 64 products of values with one bit decide. -/
theorem toNat_gfMul (a b : Byte) : (gfMul a b).toNat = reduce11D (carryless a.toNat b.toNat) := by
  have hbits : ∀ m < 8, ∀ n < 8, (gfMul (BitVec.twoPow 8 m) (BitVec.twoPow 8 n)).toNat =
      reduce11D (carryless (BitVec.twoPow 8 m).toNat (BitVec.twoPow 8 n).toNat) := by decide +kernel
  refine eq_of_xor_additive (f := fun a => (gfMul a b).toNat) (g := fun a => reduce11D (carryless a.toNat b.toNat))
    (fun x y => ?_) (fun x y => ?_) (fun m hm => ?_) a
  · rw [gfMul_xor_left, BitVec.toNat_xor]
  · rw [BitVec.toNat_xor, carryless_xor_left, reduce11D_xor]
  refine eq_of_xor_additive (f := fun b => (gfMul _ b).toNat) (g := fun b => reduce11D (carryless _ b.toNat))
    (fun x y => ?_) (fun x y => ?_) (fun n hn => hbits m hm n hn) b
  · rw [gfMul_xor_right, BitVec.toNat_xor]
  · rw [BitVec.toNat_xor, carryless_xor_right, reduce11D_xor]

/-- Settles O8: the laws come from α^i ⊗ b being i multiplications of b by x, and the product from bilinearity. -/
theorem gfMulFieldLaws : Obligations.GfMulFieldLaws :=
  ⟨gfMul_comm, gfMul_assoc, fun a => ⟨gfMul_one_left a, gfMul_one_right a⟩, fun a => ⟨gfMul_zero_left a, gfMul_zero_right a⟩,
    gfMul_xor_right, fun _ => gfMul_inverse, toNat_gfMul⟩

end Sys2Proof.Machine
end

section

/-! The GF commands (spec/40_gf_arith.md R130 to R132), and the word check of the commands without an argument. -/

namespace Sys2Proof

open Sys2Proof.Machine Sys2Proof.Terms

/-! ### The words of the commands without an argument -/

theorem encode_plain_eq_iff {i : Instr} (hi : i ∈ plainInstrs) {w : Word} (hw : w.toNat % 256 = i.op.toNat) :
    encode i = w ↔ w.toNat / 256 = 0 := by
  rw [encode_eq_iff, plainInstrs_arg i hi, rsvField_eq_zero, ← BitVec.toNat_inj, ← BitVec.toNat_inj, opField_toNat,
    argField_toNat, BitVec.toNat_ofNat]
  omega

/-- No other command has the OP of a command without an argument. -/
theorem eq_of_op_eq_plain : ∀ i ∈ plainInstrs, ∀ j ∈ plainInstrs ++ maskInstrs, j.op = i.op → j = i := by
  decide +kernel

/-- The word check of every command without an argument. -/
theorem plainWord {i : Instr} (hi : i ∈ plainInstrs) : PlainWord i.op.toNat i := by
  intro s w hs hw
  split
  · next h =>
    obtain rfl := (encode_plain_eq_iff hi hw).2 h
    exact State.sequencerTurn_decoded hs (decode_encode (wellFormed_iff_mem.2 (List.mem_append_left _ hi)))
  · next h =>
    refine sequencerTurn_illegal hs fun j hj => h ?_
    obtain ⟨hwf, rfl⟩ := decode_eq_ok_iff.1 hj
    have hop : j.op = i.op := by
      rw [(encode_eq_iff.1 rfl).2.1]
      exact BitVec.eq_of_toNat_eq ((opField_toNat _).trans hw)
    obtain rfl := eq_of_op_eq_plain i hi j (wellFormed_iff_mem.1 hwf) hop
    exact (encode_plain_eq_iff hi hw).1 rfl

/-! ### How a command that builds no matrix ends -/

theorem exec_eq_faulted {i : Instr} {s : State} {c : FaultCode} (hi : ¬ builds i) (h : firstFault (checksOf i s) = some c) :
    exec i s = .next (faulted c.code s) := by
  rw [exec_eq_conclude hi, h]
  rfl

theorem exec_eq_finished {i : Instr} {s : State} (hi : ¬ builds i) (h : ChecksPass i s) :
    exec i s = .next (finished (s.writes i)) := by
  rw [exec_eq_conclude hi, firstFault_eq_none.2 h]
  rfl

/-! ### The three commands -/

/-- Settles O9: GF_MUL has no check and writes the product, for which 0x01 is the identity. -/
theorem gfMulCommand : Obligations.GfMulCommand := by
  refine ⟨plainWord (i := .gfMul) (by decide), fun s => exec_eq_finished (by simp [builds]) (by simp [ChecksPass, checksOf]),
    by decide +kernel, fun a ha => ?_⟩
  have hone : gfLog 0x01#8 = 0 := gfLog_gfExp 0
  simp [hone, gfExp_gfLog ha]

/-- Settles O10: GF_EXP has no check, and no power of α is 0. -/
theorem gfExpCommand : Obligations.GfExpCommand := by
  refine ⟨plainWord (i := .gfExp) (by decide), fun s => ?_, gfExp_zero, rfl, gfExp_ne_zero⟩
  rw [gfExp_mod]
  exact exec_eq_finished (by simp [builds]) (by simp [ChecksPass, checksOf])

/-- Settles O11: the one check of GF_LOG fails for 0, and every other byte has its place in EXP. -/
theorem gfLogCommand : Obligations.GfLogCommand := by
  have hbuilds : ¬ builds .gfLog := by simp [builds]
  have hlast : gfExp 254 = 0x8E#8 := by decide +kernel
  refine ⟨plainWord (i := .gfLog) (by decide), fun s h => ?_, fun s h => ⟨?_, gfLog_lt h⟩, gfLog_gfExp 0, hlast ▸ gfLog_gfExp 254⟩
  · exact exec_eq_faulted (c := .gfLogZero) hbuilds (by simp [checksOf, firstFault, h])
  · exact exec_eq_finished hbuilds (by simp [ChecksPass, checksOf, h])

end Sys2Proof
end

section

/-! Lists of coefficients as polynomials over a ring: the products, sums and values of spec/40_gf_arith.md R126 become those of
Mathlib's `Polynomial`. -/

namespace Sys2Proof.Machine

open Sys2Proof.Terms Polynomial

/-! ### GF(256) as a ring (R125) -/

/-- `φ` reads bytes as the elements of a commutative ring whose sum is ⊕ and whose product is ⊗. -/
structure ReadsField {R : Type} [CommRing R] (φ : Byte → R) : Prop where
  injective : Function.Injective φ
  zero : φ 0#8 = 0
  one : φ 0x01#8 = 1
  xor : ∀ a b, φ (a ^^^ b) = φ a + φ b
  mul : ∀ a b, φ (gfMul a b) = φ a * φ b

/-- A byte as an element of the field: a type of its own, because `Byte` has the arithmetic modulo 256. -/
structure FieldByte where
  byte : Byte

/-- The laws of R125 make a commutative ring of the bytes. -/
abbrev FieldByte.commRing : CommRing FieldByte :=
  letI : Add FieldByte := ⟨fun a b => ⟨a.byte ^^^ b.byte⟩⟩
  letI : Mul FieldByte := ⟨fun a b => ⟨gfMul a.byte b.byte⟩⟩
  letI : Neg FieldByte := ⟨id⟩
  letI : Zero FieldByte := ⟨⟨0#8⟩⟩
  letI : One FieldByte := ⟨⟨0x01#8⟩⟩
  CommRing.ofMinimalAxioms (fun a b c => congrArg mk (BitVec.xor_assoc a.byte b.byte c.byte))
    (fun _ => congrArg mk BitVec.zero_xor) (fun _ => congrArg mk BitVec.xor_self)
    (fun a b c => congrArg mk (gfMul_assoc a.byte b.byte c.byte)) (fun a b => congrArg mk (gfMul_comm a.byte b.byte))
    (fun a => congrArg mk (gfMul_one_left a.byte)) (fun a b c => congrArg mk (gfMul_xor_right a.byte b.byte c.byte))

theorem exists_readsField : ∃ (R : Type) (_ : CommRing R) (φ : Byte → R), ReadsField φ :=
  letI := FieldByte.commRing
  ⟨FieldByte, this, FieldByte.mk, fun _ _ h => congrArg FieldByte.byte h, rfl, rfl, fun _ _ => rfl, fun _ _ => rfl⟩

section

variable {R : Type} [CommRing R] {φ : Byte → R} (hφ : ReadsField φ)

include hφ

/-- The characteristic is 2, in the form in which identities between polynomials use it. -/
theorem ReadsField.two_eq_zero : (2 : R[X]) = 0 := by
  have h : (2 : R) = 0 := by rw [← one_add_one_eq_two, ← hφ.one, ← hφ.xor, BitVec.xor_self, hφ.zero]
  rw [← map_ofNat C 2, h, map_zero]

theorem ReadsField.xorSum (l : List Byte) : φ (xorSum l) = (l.map φ).sum := by
  induction l using List.reverseRecOn with
  | nil => exact hφ.zero
  | append_singleton l a ih =>
    rw [Terms.xorSum, List.foldl_append, List.foldl_cons, List.foldl_nil, hφ.xor, ← Terms.xorSum, ih]
    simp

/-- The powers of α^i (R121). -/
theorem ReadsField.gfExp_mul (i n : Nat) : φ (gfExp (i * n)) = φ (gfExp i) ^ n := by
  induction n with
  | zero => simp [hφ.one]
  | succ n ih => rw [Nat.mul_succ, ← gfMul_gfExp, hφ.mul, ih, pow_succ]

end

/-! ### The polynomial of a list of coefficients -/

section

variable {R : Type} [CommRing R]

/-- The polynomial with the coefficients `p`, listed from x^0 on. -/
noncomputable def toPoly (φ : Byte → R) : List Byte → R[X]
  | [] => 0
  | a :: p => C (φ a) + X * toPoly φ p

variable (φ : Byte → R)

@[simp] theorem toPoly_nil : toPoly φ [] = 0 := rfl

@[simp] theorem toPoly_cons (a : Byte) (p : List Byte) : toPoly φ (a :: p) = C (φ a) + X * toPoly φ p := rfl

theorem toPoly_append (p q : List Byte) : toPoly φ (p ++ q) = toPoly φ p + X ^ p.length * toPoly φ q := by
  induction p with
  | nil => simp
  | cons a p ih => rw [List.cons_append, toPoly_cons, toPoly_cons, ih, List.length_cons]; ring

theorem toPoly_fromHighest_append (c e : List Byte) :
    toPoly φ (fromHighest (c ++ e)) = toPoly φ (fromHighest e) + X ^ e.length * toPoly φ (fromHighest c) := by
  rw [fromHighest, List.reverse_append, toPoly_append, List.length_reverse, fromHighest, fromHighest]

theorem toPoly_fromHighest_singleton (a : Byte) : toPoly φ (fromHighest [a]) = C (φ a) := by
  rw [fromHighest, List.reverse_singleton, toPoly_cons, toPoly_nil, mul_zero, add_zero]

variable {φ} (hφ : ReadsField φ)

include hφ

theorem toPoly_replicate_zero (k : Nat) : toPoly φ (List.replicate k 0#8) = 0 := by
  induction k with
  | zero => rfl
  | succ k ih => simp [List.replicate_succ, ih, hφ.zero]

theorem toPoly_zipWith_xor {p q : List Byte} (h : p.length = q.length) :
    toPoly φ (List.zipWith (· ^^^ ·) p q) = toPoly φ p + toPoly φ q := by
  induction p generalizing q with
  | nil => simp [List.eq_nil_of_length_eq_zero h.symm]
  | cons a p ih =>
    obtain ⟨b, q, rfl⟩ := List.exists_cons_of_length_eq_add_one h.symm
    rw [List.zipWith_cons_cons, toPoly_cons, toPoly_cons, toPoly_cons, ih (by simpa using h), hφ.xor, C_add]
    ring

theorem toPoly_map_gfMul (a : Byte) (p : List Byte) : toPoly φ (p.map (gfMul a)) = C (φ a) * toPoly φ p := by
  induction p with
  | nil => simp
  | cons b p ih => rw [List.map_cons, toPoly_cons, toPoly_cons, ih, hφ.mul, C_mul]; ring

theorem coeff_toPoly (p : List Byte) (n : Nat) : (toPoly φ p).coeff n = φ (p.getD n 0#8) := by
  induction p generalizing n with
  | nil => simp [hφ.zero]
  | cons a p ih => cases n <;> simp [ih]

/-- R126: the ⊕ over i + j = n of a_i ⊗ b_j is the coefficient of the product. -/
theorem coeff_toPoly_mul (p q : List Byte) (n : Nat) : (toPoly φ p * toPoly φ q).coeff n = φ (prodCoeff p q n) := by
  rw [coeff_mul, Finset.Nat.sum_antidiagonal_eq_sum_range_succ_mk, prodCoeff, hφ.xorSum, List.map_map]
  simp only [coeff_toPoly hφ, ← hφ.mul]
  rfl

/-- Horner's value at `x`, for coefficients from the highest power on. -/
theorem map_evalPoly (c : List Byte) (x : Byte) : φ (evalPoly c x) = (toPoly φ (fromHighest c)).eval (φ x) := by
  induction c using List.reverseRecOn with
  | nil => simp [evalPoly, fromHighest, hφ.zero]
  | append_singleton c a ih =>
    rw [evalPoly, List.foldl_append, List.foldl_cons, List.foldl_nil, ← evalPoly, hφ.xor, hφ.mul, ih, toPoly_fromHighest_append,
      toPoly_fromHighest_singleton, List.length_singleton, pow_one, eval_add, eval_mul, eval_C, eval_X]
    ring

theorem map_syndrome_cons (a : Byte) (c : List Byte) (i : Nat) :
    φ (syndrome (a :: c) i) = φ a * φ (gfExp i) ^ c.length + φ (syndrome c i) := by
  rw [syndrome, syndrome, hφ.xorSum, hφ.xorSum, List.length_cons, List.range_succ_eq_map, List.map_cons, List.map_cons,
    List.sum_cons, hφ.mul, Nat.sub_zero, Nat.add_sub_cancel, hφ.gfExp_mul]
  simp [Function.comp_def, Nat.sub_sub, Nat.add_comm]

/-- The syndrome of R148 is the value at α^i. -/
theorem map_syndrome (c : List Byte) (i : Nat) : φ (syndrome c i) = (toPoly φ (fromHighest c)).eval (φ (gfExp i)) := by
  induction c with
  | nil => simp [syndrome, xorSum, fromHighest, hφ.zero]
  | cons a c ih =>
    rw [map_syndrome_cons hφ, ih, ← List.singleton_append, toPoly_fromHighest_append, toPoly_fromHighest_singleton, eval_add, eval_mul,
      eval_pow, eval_X, eval_C]
    ring

end

end Sys2Proof.Machine
end

section

/-! The generator polynomial, the ECC codewords and the syndromes (spec/41_reed_solomon.md R140 to R146). -/

namespace Sys2Proof.Machine

open Sys2Proof.Terms Polynomial

/-! ### The generator polynomial (R140) -/

@[simp] theorem length_polyMul (p q : List Byte) : (polyMul p q).length = p.length + q.length - 1 := by
  simp [polyMul]

theorem getD_polyMul {p q : List Byte} {n : Nat} (h : n < p.length + q.length - 1) : (polyMul p q).getD n 0#8 = prodCoeff p q n := by
  simp [polyMul, h]

section

variable {R : Type} [CommRing R] {φ : Byte → R} (hφ : ReadsField φ)

include hφ

theorem toPoly_linear (a : Byte) : toPoly φ [a, 0x01#8] = X + C (φ a) := by
  simp [hφ.one, add_comm]

theorem toPoly_mulLinear (g : List Byte) (a : Byte) : toPoly φ (mulLinear g a) = toPoly φ g * (X + C (φ a)) := by
  rw [mulLinear, toPoly_zipWith_xor hφ (by simp), toPoly_append]
  simp only [gfMul_comm _ a, toPoly_map_gfMul hφ, toPoly_cons, toPoly_nil, hφ.zero, C_0]
  ring

theorem toPoly_genPoly (k : Nat) : toPoly φ (genPoly k) = ∏ i ∈ Finset.range k, (X + C (φ (gfExp i))) := by
  induction k with
  | zero => simp [genPoly, hφ.one]
  | succ k ih => rw [genPoly_succ, toPoly_mulLinear hφ, ih, Finset.prod_range_succ]

theorem eval_toPoly_genPoly {i k : Nat} (h : i < k) : (toPoly φ (genPoly k)).eval (φ (gfExp i)) = 0 := by
  rw [toPoly_genPoly hφ, eval_prod]
  refine Finset.prod_eq_zero (Finset.mem_range.2 h) ?_
  rw [eval_add, eval_X, eval_C, ← hφ.xor, BitVec.xor_self, hφ.zero]

end

/-- One pass of R141 is the product of R126 with the linear factor. -/
theorem mulLinear_eq_polyMul (g : List Byte) (a : Byte) : mulLinear g a = polyMul g [a, 0x01#8] := by
  obtain ⟨R, _, φ, hφ⟩ := exists_readsField
  refine List.ext_getElem (by simp [length_mulLinear]) fun n hn hn' => hφ.injective ?_
  rw [← List.getD_eq_getElem _ 0#8 hn, ← List.getD_eq_getElem _ 0#8 hn', getD_polyMul (length_polyMul g _ ▸ hn'), ← coeff_toPoly hφ,
    toPoly_mulLinear hφ, ← toPoly_linear hφ, coeff_toPoly_mul hφ]

theorem genPoly_eq_generatorProduct (k : Nat) : genPoly k = generatorProduct k := by
  simp only [genPoly, generatorProduct, mulLinear_eq_polyMul]

theorem getD_genPoly_self (k : Nat) : (genPoly k).getD k 0#8 = 0x01#8 := by
  obtain ⟨R, _, φ, hφ⟩ := exists_readsField
  induction k with
  | zero => rfl
  | succ k ih =>
    apply hφ.injective
    rw [genPoly_succ, ← coeff_toPoly hφ, toPoly_mulLinear hφ, mul_add, coeff_add, coeff_mul_X, coeff_mul_C, coeff_toPoly hφ,
      coeff_toPoly hφ, ih, genPoly_getD_of_lt k.lt_succ_self, hφ.zero, zero_mul, add_zero]

/-- Settles O12: the product of the linear factors over the ring, whose leading coefficient is 1 at every pass. -/
theorem generatorPolynomial : Obligations.GeneratorPolynomial := fun k =>
  ⟨genPoly_eq_generatorProduct k, length_genPoly k, getD_genPoly_self k⟩

/-- g_0 .. g_(K−1), without the leading 1. -/
theorem genPoly_eq_take_append (k : Nat) : genPoly k = (genPoly k).take k ++ [0x01#8] := by
  have hk : k < (genPoly k).length := by simp
  rw [← getD_genPoly_self k, List.getD_eq_getElem _ _ hk, List.take_concat_get', List.take_of_length_le (by simp)]

/-! ### Division by the generator polynomial (R143, R144) -/

theorem ecc_append_singleton (d : List Byte) (b : Byte) (k : Nat) :
    ecc (d ++ [b]) k = eccStep ((genPoly k).take k).reverse (ecc d k) b := by
  simp [ecc]

theorem length_take_genPoly (k : Nat) : ((genPoly k).take k).length = k := by simp

section

variable {R : Type} [CommRing R] {φ : Byte → R} (hφ : ReadsField φ)

include hφ

/-- One step of the shift register for a divisor `x^k ⊕ g`: the remainder times x, the codeword enters at x^k, and the multiple
of the divisor by what then stands at x^k is taken away. -/
theorem toPoly_eccStep {g rem : List Byte} (hlen : rem.length = g.length) (hg : 1 ≤ g.length) (b : Byte) :
    toPoly φ (fromHighest (eccStep g.reverse rem b)) + C (φ (b ^^^ rem.headD 0#8)) * toPoly φ (g ++ [0x01#8]) =
      X * toPoly φ (fromHighest rem) + X ^ g.length * C (φ b) := by
  obtain ⟨r, rem, rfl⟩ := List.exists_cons_of_length_pos (hlen ▸ hg)
  have hxor : eccStep g.reverse (r :: rem) b = List.zipWith (· ^^^ ·) (rem ++ [0#8]) (g.map (gfMul (b ^^^ r))).reverse := by
    simp [eccStep, List.zipWith_map_right, ← List.map_reverse]
  rw [hxor, fromHighest, fromHighest, List.reverse_zipWith (by simpa using hlen), List.reverse_reverse, List.reverse_append,
    toPoly_zipWith_xor hφ (by simpa using hlen), toPoly_map_gfMul hφ]
  simp only [List.headD_cons, List.reverse_cons, List.reverse_nil, List.nil_append, List.singleton_append, toPoly_append, toPoly_cons,
    toPoly_nil, hφ.zero, hφ.one, hφ.xor, C_0, C_1, C_add, List.length_reverse, ← hlen, List.length_cons]
  linear_combination (C (φ b) + C (φ r)) * toPoly φ g * hφ.two_eq_zero

/-- The division identity of R143: D(x)·x^K = Q(x)·g_K(x) + R(x). -/
theorem exists_division (d : List Byte) {k : Nat} (hk : 1 ≤ k) :
    ∃ q : List Byte, q.length = d.length ∧
      X ^ k * toPoly φ (fromHighest d) = toPoly φ q * toPoly φ (genPoly k) + toPoly φ (fromHighest (ecc d k)) := by
  induction d using List.reverseRecOn with
  | nil => exact ⟨[], rfl, by simp [ecc, fromHighest, toPoly_replicate_zero hφ]⟩
  | append_singleton d b ih =>
    obtain ⟨q, hq, ih⟩ := ih
    have hstep := toPoly_eccStep hφ (g := (genPoly k).take k) (rem := ecc d k) (by simp [length_ecc d hk]) (by simpa) b
    rw [← genPoly_eq_take_append, length_take_genPoly, ← ecc_append_singleton] at hstep
    refine ⟨(b ^^^ (ecc d k).headD 0#8) :: q, by simp [hq], ?_⟩
    rw [toPoly_fromHighest_append, toPoly_fromHighest_singleton, List.length_singleton, toPoly_cons]
    linear_combination X * ih - hstep

/-- The codeword is a multiple of the generator polynomial, because ⊕ is its own inverse. -/
theorem codeword_eq_multiple (d : List Byte) {k : Nat} (hk : 1 ≤ k) :
    ∃ q : List Byte, toPoly φ (fromHighest (d ++ ecc d k)) = toPoly φ q * toPoly φ (genPoly k) := by
  obtain ⟨q, -, h⟩ := exists_division hφ d hk
  refine ⟨q, ?_⟩
  rw [toPoly_fromHighest_append, length_ecc d hk]
  linear_combination h + toPoly φ (fromHighest (ecc d k)) * hφ.two_eq_zero

end

/-- Settles O13: the identity between polynomials, coefficient by coefficient. -/
theorem eccIsRemainder : Obligations.EccIsRemainder := by
  intro d k hk
  obtain ⟨R, _, φ, hφ⟩ := exists_readsField
  obtain ⟨q, hq, h⟩ := exists_division hφ d hk
  refine ⟨length_ecc d hk, q, hq, fun n => hφ.injective ?_⟩
  rw [hφ.xor, ← genPoly_eq_generatorProduct, ← coeff_toPoly_mul hφ, Terms.coeff, Terms.coeff, ← coeff_toPoly hφ, ← coeff_toPoly hφ,
    ← coeff_add, ← h, toPoly_fromHighest_append, List.length_replicate, fromHighest, List.reverse_replicate, toPoly_replicate_zero hφ,
    zero_add]

/-- Settles O14: a multiple of g_K(x) is 0 at its roots α^0, …, α^(K−1). -/
theorem codewordSyndromesVanish : Obligations.CodewordSyndromesVanish := by
  intro d k hk
  obtain ⟨R, _, φ, hφ⟩ := exists_readsField
  obtain ⟨q, h⟩ := codeword_eq_multiple hφ d hk
  refine ⟨⟨q, fun n => hφ.injective ?_⟩, fun i hi => hφ.injective ?_⟩
  · rw [Terms.coeff, ← coeff_toPoly hφ, h, coeff_toPoly_mul hφ, genPoly_eq_generatorProduct]
  · rw [map_syndrome hφ, h, eval_mul, eval_toPoly_genPoly hφ hi, mul_zero, hφ.zero]

/-- Horner's value at α^i is the syndrome of R148. -/
theorem evalPoly_gfExp (c : List Byte) (i : Nat) : evalPoly c (gfExp i) = syndrome c i := by
  obtain ⟨R, _, φ, hφ⟩ := exists_readsField
  exact hφ.injective ((map_evalPoly hφ c _).trans (map_syndrome hφ c i).symm)

theorem syndromes_eq_map_syndrome (c : List Byte) (k : Nat) : syndromes c k = (List.range k).map (syndrome c) := by
  simp only [syndromes, evalPoly_gfExp]

theorem getD_syndromes (c : List Byte) {j k : Nat} (h : j < k) : (syndromes c k).getD j 0#8 = syndrome c j := by
  simp [syndromes_eq_map_syndrome, h]

theorem syndromes_all_zero (c : List Byte) (k : Nat) :
    ((syndromes c k).all fun x => x = 0#8) = true ↔ ∀ i < k, syndrome c i = 0#8 := by
  simp [syndromes_eq_map_syndrome]

/-! ### Data without a one (R146) -/

theorem eccStep_zero (g : List Byte) : eccStep g (List.replicate g.length 0#8) 0#8 = List.replicate g.length 0#8 := by
  cases g with
  | nil => rfl
  | cons a g =>
    have hshift : (List.replicate (a :: g).length 0#8).tail ++ [0#8] = List.replicate (a :: g).length 0#8 := by
      rw [List.tail_replicate, ← List.replicate_succ', List.length_cons, Nat.add_sub_cancel]
    have hfeedback : 0#8 ^^^ (List.replicate (a :: g).length 0#8).headD 0#8 = 0#8 := by simp [List.replicate_succ]
    simp only [eccStep, hshift, hfeedback, gfMul_zero_left, BitVec.xor_zero]
    exact List.ext_getElem (by simp) fun i _ _ => by simp only [List.getElem_zipWith]

theorem ecc_replicate_zero (n k : Nat) : ecc (List.replicate n 0#8) k = List.replicate k 0#8 := by
  induction n with
  | zero => rfl
  | succ n ih =>
    have h := eccStep_zero ((genPoly k).take k).reverse
    rw [List.length_reverse, length_take_genPoly] at h
    rw [List.replicate_succ', ecc_append_singleton, ih, h]

end Sys2Proof.Machine
end

section

/-! The Reed-Solomon commands (spec/41_reed_solomon.md R146, R150 to R152). -/

namespace Sys2Proof

open Sys2Proof.Machine Sys2Proof.Terms

/-! ### The checks -/

theorem kIllegal_iff_badK {p : Params} : kIllegal p ↔ p.badK = true := by
  rw [Params.badK, Bool.or_eq_true, decide_eq_true_eq, decide_eq_true_eq]
  rfl

/-- A failing check faults, in every command, whether it builds a matrix or not. -/
theorem exec_eq_faulted_of_check {i : Instr} {s : State} {c : FaultCode} (h : firstFault (checksOf i s) = some c) :
    exec i s = .next (faulted c.code s) := by
  by_cases hi : builds i
  · rw [checksOf_eq_buildChecks hi] at h
    rw [exec_eq_concludeBuild hi, State.concludeBuild, h]
    rfl
  · exact exec_eq_faulted hi h

/-- BAD_K is the first check of every command that uses K. -/
theorem exec_of_kIllegal {i : Instr} {s : State} (hi : i ∈ [Instr.genPoly, .rsBlock, .rsSynd, .interleave, .matrixBuild, .encodeAll])
    (hk : kIllegal s.params) : exec i s = .next (faulted 0x02#8 s) := by
  have hfirst : ∃ rest, checksOf i s = (s.params.badK, .badK) :: rest := by
    fin_cases hi <;> exact ⟨_, rfl⟩
  obtain ⟨rest, hfirst⟩ := hfirst
  exact exec_eq_faulted_of_check (c := .badK) (by rw [hfirst, firstFault_cons, kIllegal_iff_badK.1 hk, if_pos rfl])

/-- Settles O15: the shift register stays 0 on zeros, and BAD_K is the first check. -/
theorem eccCornerCases : Obligations.EccCornerCases :=
  ⟨fun _ => rfl, ecc_replicate_zero, fun s i hi hk => exec_of_kIllegal hi (.inl (by rw [hk]; rfl))⟩

/-! ### GEN_POLY -/

theorem setGenerator_eq_withGenerator (s : State) : s.setGenerator s.params.k (genPoly s.params.k) = withGenerator s := by
  have hpoly : ∀ k i : Nat, (if i ≤ k then coeff (genPoly k) i else 0#8) = (genPoly k).getD i 0#8 := fun k i => by
    split
    · rfl
    · exact (genPoly_getD_of_lt (by omega)).symm
  rw [State.setGenerator, Params.k_ofNat]
  simp only [withGenerator, hpoly]
  rfl

/-- No legal K reaches x^31. -/
theorem withGenerator_gpoly_31 {s : State} (hk : ¬ kIllegal s.params) : (withGenerator s).gen.gpoly[31] = 0#8 := by
  have hlt : ¬ 31 ≤ s.params.rsK.toNat := mt .inr hk
  simp only [withGenerator, Vector.getElem_ofFn, if_neg hlt]

/-- Settles O16: BAD_K is the only check, and the writes are those of R142. -/
theorem genPolyCommand : Obligations.GenPolyCommand := by
  refine ⟨plainWord (i := .genPoly) (by decide), fun s => exec_of_kIllegal (by simp), fun s hk => ⟨?_, withGenerator_gpoly_31 hk⟩,
    by decide +kernel, by decide +kernel, genPoly_eq_generatorProduct⟩
  rw [← setGenerator_eq_withGenerator]
  exact exec_eq_finished (by simp [builds]) (by simpa [ChecksPass, checksOf, kIllegal_iff_badK] using hk)

/-! ### RS_BLOCK and RS_SYND -/

theorem badRange_eq_false_iff {p : Params} {len : Nat} :
    p.badRange len = false ↔ p.rsSrc.toNat + len ≤ 4096 ∧ p.rsDst.toNat + (p.rsK.toNat - 1) * p.rsStride.toNat ≤ 4095 := by
  rw [Params.badRange_eq_false, Config.dbufSize, Config.cbufSize, Nat.lt_succ_iff]
  rfl

section

variable {i : Instr} {s : State} {len : Nat}
  (hchecks : checksOf i s = [(s.params.badK, .badK), (s.params.badRange len, .badRange)]) (hk : ¬ kIllegal s.params)

include hchecks hk

theorem exec_of_badRange (hr : ¬ s.params.badRange len = false) : exec i s = .next (faulted 0x04#8 s) := by
  rw [kIllegal_iff_badK, Bool.not_eq_true] at hk
  rw [Bool.not_eq_false] at hr
  exact exec_eq_faulted_of_check (c := .badRange) (by simp [hchecks, firstFault_cons, hk, hr])

theorem exec_of_range_ok (hi : ¬ builds i) (hr : s.params.badRange len = false) : exec i s = .next (finished (s.writes i)) := by
  rw [kIllegal_iff_badK, Bool.not_eq_true] at hk
  exact exec_eq_finished hi (by simp [ChecksPass, hchecks, hk, hr])

end

/-- Settles O17: the checks in their order, the strided write of the ECC, and the generator registers. -/
theorem rsBlockCommand : Obligations.RsBlockCommand := by
  refine ⟨plainWord (i := .rsBlock) (by decide), fun s => ⟨exec_of_kIllegal (by simp), fun hk hr => ?_, fun hk hr => ?_⟩⟩
  · exact exec_of_badRange rfl hk fun h => hr (badRange_eq_false_iff.1 h)
  · have hlen : (ecc (s.dbuf.readBytes s.params.src s.params.n) s.params.k).length = s.params.rsK.toNat :=
      length_ecc _ (Nat.pos_of_ne_zero (mt .inl hk))
    refine ⟨s.rsBlockWrites.cbuf, ?_, fun a ha => ?_, fun hm j hj hlast => ?_⟩
    · rw [← setGenerator_eq_withGenerator]
      exact exec_of_range_ok rfl hk (by simp [builds]) (badRange_eq_false_iff.2 hr)
    · exact Memory.readByte_writeStrided_ne _ _ _ _ (by rwa [hlen])
    · exact Memory.readByte_writeStrided hm.2.1 _ _ _ (by rwa [hlen]) (by rwa [hlen])

/-- Settles O18: the checks in their order, the strided write of the syndromes, and RS_SYNDZ. -/
theorem rsSyndCommand : Obligations.RsSyndCommand := by
  refine ⟨plainWord (i := .rsSynd) (by decide), fun s => ⟨exec_of_kIllegal (by simp), fun hk hr => ?_, fun hk hr => ?_⟩⟩
  · exact exec_of_badRange rfl hk fun h => hr (badRange_eq_false_iff.1 h)
  · have hlen : (syndromes (s.dbuf.readBytes s.params.src (s.params.n + s.params.k)) s.params.k).length = s.params.rsK.toNat :=
      length_syndromes _ _
    refine ⟨s.rsSyndWrites.cbuf, s.rsSyndWrites.rsSyndz, exec_of_range_ok rfl hk (by simp [builds]) (badRange_eq_false_iff.2 hr),
      syndromes_all_zero _ _, fun a ha => ?_, fun hm j hj hlast => ?_⟩
    · exact Memory.readByte_writeStrided_ne _ _ _ _ (by rwa [hlen])
    · exact (Memory.readByte_writeStrided hm.2.1 _ _ _ (by rwa [hlen]) (by rwa [hlen])).trans (getD_syndromes _ hj)

end Sys2Proof
end

section

/-! The interleaved sequence: the place of every codeword in it, and that it is a permutation of the blocks' codewords
(spec/42_interleave.md R163 to R166). -/

namespace Sys2Proof.Machine

/-! ### Tables, row after row and column after column -/

section

variable {α β γ : Type}

theorem length_flatMap_rows (f : Nat → Nat → α) (m n : Nat) :
    ((List.range m).flatMap fun j => (List.range n).map (f j)).length = m * n := by
  simp [List.length_flatMap]

theorem getElem?_flatMap_rows (f : Nat → Nat → α) {m n j b : Nat} (hj : j < m) (hb : b < n) :
    ((List.range m).flatMap fun j => (List.range n).map (f j))[j * n + b]? = some (f j b) := by
  obtain ⟨r, rfl⟩ : ∃ r, m = j + (r + 1) := ⟨m - j - 1, by omega⟩
  rw [List.range_add, List.flatMap_append, List.getElem?_append_right (by simp), length_flatMap_rows,
    Nat.add_sub_cancel_left, List.range_succ_eq_map, List.map_cons, List.flatMap_cons, List.getElem?_append_left (by simpa)]
  simp [hb]

/-- The rows and the columns of a table of lists hold the same elements. -/
theorem flatMap_flatMap_perm (l : List α) (l' : List β) (f : α → β → List γ) :
    (l.flatMap fun x => l'.flatMap (f x)).Perm (l'.flatMap fun y => l.flatMap fun x => f x y) := by
  rw [← Multiset.coe_eq_coe]
  simpa only [Multiset.coe_bind] using Multiset.bind_bind (l : Multiset α) (l' : Multiset β) (f := fun x y => (f x y : Multiset γ))

/-- A column that ends after `n` rows. -/
theorem filterMap_range_lt {m n : Nat} (h : n ≤ m) (f : Nat → α) :
    ((List.range m).filterMap fun j => if j < n then some (f j) else none) = (List.range n).map f := by
  obtain ⟨r, rfl⟩ := Nat.exists_eq_add_of_le h
  have hlow : ((List.range n).filterMap fun j => if j < n then some (f j) else none) = (List.range n).map f := by
    rw [← List.filterMap_eq_map]
    exact List.filterMap_congr fun j hj => if_pos (List.mem_range.1 hj)
  rw [List.range_add, List.filterMap_append, hlow, List.filterMap_map]
  simp

theorem getElem?_append_of_eq_some {l : List α} {i : Nat} {x : α} (h : l[i]? = some x) (l' : List α) : (l ++ l')[i]? = some x := by
  rw [List.getElem?_append_left (List.getElem?_eq_some_iff.1 h).1, h]

theorem map_getD_range (l : List α) (x : α) : ((List.range l.length).map fun i => l.getD i x) = l := by
  refine List.ext_getElem (by simp) fun i _ hi => ?_
  rw [List.getElem_map, List.getElem_range, List.getD_eq_getElem _ _ hi]

end

/-! ### The place of every codeword (R164, R165) -/

section

variable (p : Params) (dbuf : Memory) {b j : Nat}

/-- The codewords of a block: D1, and one more in group 2 (R160). -/
theorem Params.lt_blockLen {p : Params} : j < p.blockLen b ↔ j < p.d1 ∨ j = p.d1 ∧ p.b1 ≤ b := by
  unfold Params.blockLen
  split <;> omega

/-- The rows of the data part reach to the end of every block. -/
theorem Params.blockLen_le {p : Params} (hb : b < p.blocks) : p.blockLen b ≤ p.d1 + if 0 < p.b2 then 1 else 0 := by
  unfold Params.blocks at hb
  unfold Params.blockLen
  split <;> split <;> omega

/-- The ECC part is a table with a row for each j and a column for each block. -/
theorem interleavedEcc_eq :
    interleavedEcc p dbuf =
      (List.range p.k).flatMap fun j => (List.range p.blocks).map fun b => (ecc (blockData p dbuf b) p.k).getD j 0#8 := by
  simp [interleavedEcc, blockEccs, Function.comp_def]

theorem getElem?_interleavedData (hb : b < p.blocks) (hj : j < p.blockLen b) :
    (interleavedData p dbuf)[if j < p.d1 then j * p.blocks + b else p.d1 * p.blocks + (b - p.b1)]? =
      some (dbuf.readByte (p.blockStart b + j)) := by
  rw [interleavedData_eq]
  obtain hshared | ⟨rfl, hgroup2⟩ := Params.lt_blockLen.1 hj
  · rw [if_pos hshared]
    exact getElem?_append_of_eq_some (getElem?_flatMap_rows (fun j b => dbuf.readByte (p.blockStart b + j)) hshared hb) _
  · obtain ⟨n, rfl⟩ := Nat.exists_eq_add_of_le hgroup2
    have hn : n < p.b2 := Nat.add_lt_add_iff_left.1 hb
    rw [if_neg (Nat.lt_irrefl _), List.getElem?_append_right (by simp), length_flatMap_rows]
    simp [hn]

theorem getElem?_interleavedEcc (hb : b < p.blocks) (hj : j < p.k) :
    (interleavedEcc p dbuf)[j * p.blocks + b]? = some ((ecc (blockData p dbuf b) p.k).getD j 0#8) := by
  rw [interleavedEcc_eq]
  exact getElem?_flatMap_rows (fun j b => (ecc (blockData p dbuf b) p.k).getD j 0#8) hj hb

theorem getElem?_interleaved_data (hb : b < p.blocks) (hj : j < p.blockLen b) :
    (interleaved p dbuf)[if j < p.d1 then j * p.blocks + b else p.d1 * p.blocks + (b - p.b1)]? =
      some (dbuf.readByte (p.blockStart b + j)) :=
  getElem?_append_of_eq_some (getElem?_interleavedData p dbuf hb hj) _

theorem getElem?_interleaved_ecc (hb : b < p.blocks) (hj : j < p.k) :
    (interleaved p dbuf)[p.dataTotal + j * p.blocks + b]? = some ((ecc (blockData p dbuf b) p.k).getD j 0#8) := by
  rw [interleaved, Nat.add_assoc, List.getElem?_append_right (by simp [length_interleavedData]), length_interleavedData,
    Nat.add_sub_cancel_left, getElem?_interleavedEcc p dbuf hb hj]

/-! ### The sequence as a permutation (R166) -/

/-- By columns, the data part is the blocks' data one after the other. -/
theorem interleavedData_perm : (interleavedData p dbuf).Perm ((List.range p.blocks).flatMap (blockData p dbuf)) := by
  simp only [interleavedData, List.filterMap_eq_flatMap_toList]
  refine (flatMap_flatMap_perm _ _ _).trans (.of_eq (List.flatMap_congr fun b hb => ?_))
  rw [← List.filterMap_eq_flatMap_toList]
  exact filterMap_range_lt (Params.blockLen_le (List.mem_range.1 hb)) _

theorem interleavedEcc_perm (hk : 1 ≤ p.k) :
    (interleavedEcc p dbuf).Perm ((List.range p.blocks).flatMap fun b => ecc (blockData p dbuf b) p.k) := by
  simp only [interleavedEcc_eq, List.map_eq_flatMap]
  refine (flatMap_flatMap_perm _ _ _).trans (.of_eq (List.flatMap_congr fun b _ => ?_))
  have h := map_getD_range (ecc (blockData p dbuf b) p.k) 0#8
  rwa [length_ecc _ hk, List.map_eq_flatMap] at h

theorem interleaved_perm (hk : 1 ≤ p.k) :
    (interleaved p dbuf).Perm
      ((List.range p.blocks).flatMap fun b => blockData p dbuf b ++ ecc (blockData p dbuf b) p.k) :=
  ((interleavedData_perm p dbuf).append (interleavedEcc_perm p dbuf hk)).trans (List.flatMap_append_perm _ _ _)

end

/-! ### What INTERLEAVE stores -/

section

variable {s : State} {a : Nat}

theorem readByte_interleaveWrites_of_ge (h : s.params.cwTotal ≤ a) : s.interleaveWrites.cbuf.readByte a = s.cbuf.readByte a := by
  rw [State.interleaveWrites_cbuf]
  refine Memory.readByte_writeStrided_ne _ _ _ _ fun j hj => ?_
  rw [length_interleaved] at hj
  omega

theorem readByte_interleaveWrites {v : Byte} (hm : s.cbuf.wf) (h : (interleaved s.params s.dbuf)[a]? = some v) :
    s.interleaveWrites.cbuf.readByte a = v := by
  obtain ⟨ha, -⟩ := List.getElem?_eq_some_iff.1 h
  have hread := Memory.readByte_writeStrided hm 0 1 (interleaved s.params s.dbuf) ha fun j' _ _ => by omega
  rw [Nat.mul_one, Nat.zero_add] at hread
  rw [State.interleaveWrites_cbuf, hread, List.getD_eq_getElem?_getD, h, Option.getD_some]

theorem map_readByte_interleaveWrites (hm : s.cbuf.wf) :
    ((List.range s.params.cwTotal).map fun a => s.interleaveWrites.cbuf.readByte a) = interleaved s.params s.dbuf := by
  refine List.ext_getElem (by simp [length_interleaved]) fun i _ hi => ?_
  rw [List.getElem_map, List.getElem_range, readByte_interleaveWrites hm (List.getElem?_eq_getElem hi)]

end

end Sys2Proof.Machine
end

section

/-! INTERLEAVE (spec/42_interleave.md R166, R170). -/

namespace Sys2Proof

open Sys2Proof.Machine Sys2Proof.Terms

theorem layoutLegal_iff_layoutOk {p : Params} : layoutLegal p ↔ p.layoutOk = true := by
  rw [Params.layoutOk_eq_true]
  rfl

section

variable {s : State} (hk : ¬ kIllegal s.params)

include hk

theorem exec_interleave_of_layoutIllegal (hl : ¬ layoutLegal s.params) :
    exec .interleave s = .next (faulted 0x03#8 s) := by
  rw [kIllegal_iff_badK, Bool.not_eq_true] at hk
  rw [layoutLegal_iff_layoutOk, Bool.not_eq_true] at hl
  exact exec_eq_faulted_of_check (c := .badLayout) (by simp [checksOf, firstFault_cons, hk, hl])

theorem exec_interleave_of_legal (hl : layoutLegal s.params) :
    exec .interleave s = .next (finished s.interleaveWrites) := by
  rw [kIllegal_iff_badK, Bool.not_eq_true] at hk
  rw [layoutLegal_iff_layoutOk] at hl
  exact exec_eq_finished (by simp [builds]) (by simp [ChecksPass, checksOf, hk, hl])

end

/-- Settles O19: the checks in their order, and the stored sequence read at the place of each codeword. -/
theorem interleaveCommand : Obligations.InterleaveCommand := by
  refine ⟨plainWord (i := .interleave) (by decide), fun s =>
    ⟨exec_of_kIllegal (by simp), exec_interleave_of_layoutIllegal, fun hk hl => ?_⟩⟩
  refine ⟨s.interleaveWrites.cbuf, ?_, fun _ => readByte_interleaveWrites_of_ge, fun ⟨_, hcbuf, _⟩ =>
    ⟨fun b hb j hj => ?_, fun b hb j hj => ?_⟩⟩
  · rw [← setGenerator_eq_withGenerator]
    exact exec_interleave_of_legal hk hl
  · exact readByte_interleaveWrites hcbuf (getElem?_interleaved_data _ _ hb hj)
  · exact readByte_interleaveWrites hcbuf (getElem?_interleaved_ecc _ _ hb hj)

/-- Settles O20: the stored sequence is the table of the codewords read by rows, the blocks are the table read by columns. -/
theorem interleavedIsPermutation : Obligations.InterleavedIsPermutation := by
  intro s ⟨_, hcbuf, _⟩ hk hl
  refine ⟨_, exec_interleave_of_legal hk hl, ?_, fun _ => readByte_interleaveWrites_of_ge⟩
  exact (List.Perm.of_eq (map_readByte_interleaveWrites hcbuf)).trans (interleaved_perm _ _ (Nat.pos_of_ne_zero (mt .inl hk)))

end Sys2Proof
end

section

/-! The layout of MATRIX_BUILD, cell by cell: the last step of spec/43_matrix.md R181 that writes a cell. -/

namespace Sys2Proof.Machine

open Sys2Proof.Terms

/-! ### The last write to a cell -/

section

variable {r c : Nat}

/-- What the last of several writes to the cell (r, c) writes there, if one does. -/
def lastWrite (ws : List CellWrite) (r c : Nat) : Option Byte :=
  (ws.reverse.find? fun x => x.1 = r ∧ x.2.1 = c).map fun x => x.2.2

theorem Grid.cell_putAll_eq_lastWrite {w : Nat} {g : Grid} (h : g.square w) (ws : List CellWrite) (hr : r < w) (hc : c < w) :
    (g.putAll ws).cell r c = (lastWrite ws r c).getD (g.cell r c) := by
  rw [Grid.cell_putAll h ws hr hc, lastWrite]
  cases ws.reverse.find? fun x => x.1 = r ∧ x.2.1 = c <;> rfl

/-- Of two lists of writes, the second has the last word. -/
theorem lastWrite_append (xs ys : List CellWrite) : lastWrite (xs ++ ys) r c = (lastWrite ys r c).or (lastWrite xs r c) := by
  simp [lastWrite, Option.map_or]

theorem lastWrite_flatMap {α : Type} (l : List α) (f : α → List CellWrite) :
    lastWrite (l.flatMap f) r c = l.reverse.findSome? fun y => lastWrite (f y) r c := by
  induction l with
  | nil => rfl
  | cons y l ih => simp [lastWrite_append, ih, List.findSome?_append]

/-- One of several writes goes to the cell (r, c). -/
def Covers (ws : List CellWrite) (r c : Nat) : Prop := ∃ x ∈ ws, CellWrite.hits x r c

@[simp] theorem covers_nil : ¬ Covers [] r c := by simp [Covers]

@[simp] theorem covers_cons {x : CellWrite} {ws : List CellWrite} :
    Covers (x :: ws) r c ↔ CellWrite.hits x r c ∨ Covers ws r c :=
  List.exists_mem_cons_iff _ _ _

@[simp] theorem covers_flatMap {α : Type} {l : List α} {f : α → List CellWrite} :
    Covers (l.flatMap f) r c ↔ ∃ y ∈ l, Covers (f y) r c := by
  simp only [Covers, List.mem_flatMap]
  exact ⟨fun ⟨x, ⟨y, hy, hx⟩, hhit⟩ => ⟨y, hy, x, hx, hhit⟩, fun ⟨y, hy, x, hx, hhit⟩ => ⟨x, ⟨y, hy, hx⟩, hhit⟩⟩

@[simp] theorem covers_map {α : Type} {l : List α} {f : α → CellWrite} :
    Covers (l.map f) r c ↔ ∃ y ∈ l, CellWrite.hits (f y) r c := by
  simp [Covers]

@[simp] theorem hits_setf {r' c' : Nat} {d : Bool} : CellWrite.hits (setf r' c' d) r c ↔ r' = r ∧ c' = c := Iff.rfl

@[simp] theorem hits_setfmt {r' c' : Nat} : CellWrite.hits (setfmt r' c') r c ↔ r' = r ∧ c' = c := Iff.rfl

theorem findSome?_eq_map_find? {α β : Type} {l : List α} {f : α → Option β} {p : α → Bool} {g : α → β}
    (h : ∀ y ∈ l, f y = if p y then some (g y) else none) : l.findSome? f = (l.find? p).map g := by
  induction l with
  | nil => rfl
  | cons y l ih =>
    rw [List.findSome?_cons, h y List.mem_cons_self, List.find?_cons, ih fun z hz => h z (List.mem_cons_of_mem _ hz)]
    cases p y <;> rfl

theorem lastWrite_eq_none {ws : List CellWrite} (h : ¬ Covers ws r c) : lastWrite ws r c = none := by
  have hno : ∀ x ∈ ws, x.1 = r → x.2.1 ≠ c := fun x hx hr hc => h ⟨x, hx, hr, hc⟩
  simpa [lastWrite] using hno

/-- Writes that agree on a cell. -/
theorem lastWrite_eq_some {ws : List CellWrite} {b : Byte} (hcov : Covers ws r c)
    (hval : ∀ x ∈ ws, CellWrite.hits x r c → x.2.2 = b) : lastWrite ws r c = some b := by
  unfold lastWrite
  cases hf : ws.reverse.find? fun x => x.1 = r ∧ x.2.1 = c with
  | none =>
    obtain ⟨x, hx, hhit⟩ := hcov
    exact absurd hhit (by simpa [CellWrite.hits] using List.find?_eq_none.1 hf x (List.mem_reverse.2 hx))
  | some x =>
    have hhit : x.1 = r ∧ x.2.1 = c := by simpa using List.find?_some hf
    rw [Option.map_some, hval x (List.mem_reverse.1 (List.mem_of_find?_eq_some hf)) hhit]

/-- Writes of one value to the cells of a region. -/
theorem lastWrite_eq_ite {ws : List CellWrite} {b : Byte} {p : Prop} [Decidable p] (hcov : Covers ws r c ↔ p)
    (hval : ∀ x ∈ ws, CellWrite.hits x r c → x.2.2 = b) : lastWrite ws r c = if p then some b else none := by
  split
  · next hp => exact lastWrite_eq_some (hcov.2 hp) hval
  · next hp => exact lastWrite_eq_none (mt hcov.1 hp)

/-! ### The steps of R181 -/

theorem mkCell_func (d : Bool) : mkCell .func d false = function d := by cases d <;> rfl

/-- A square of rings with its top-left corner at (r0, c0). -/
theorem lastWrite_ringSquare (h light r0 c0 : Nat) :
    lastWrite (ringSquare h light r0 c0) r c =
      if Terms.dist r (r0 + h) ≤ h ∧ Terms.dist c (c0 + h) ≤ h then
        some (function (max (Terms.dist r (r0 + h)) (Terms.dist c (c0 + h)) ≠ light))
      else none := by
  refine lastWrite_eq_ite ?_ fun x hx hhit => ?_
  · simp only [ringSquare, covers_flatMap, covers_map, hits_setf, List.mem_range]
    unfold Terms.dist
    refine ⟨?_, fun _ => ⟨r - r0, by omega, c - c0, by omega⟩⟩
    rintro ⟨i, hi, j, hj, hhit⟩
    omega
  · simp only [ringSquare, List.mem_flatMap, List.mem_map] at hx
    obtain ⟨i, -, j, -, rfl⟩ := hx
    obtain ⟨rfl, rfl⟩ := hhit
    have hdist : ∀ x0 i, absDiff i h = Terms.dist (x0 + i) (x0 + h) := fun x0 i => by unfold absDiff Terms.dist; omega
    rw [hdist r0 i, hdist c0 j, ← mkCell_func]
    rfl

/-- Step (1), R183. -/
theorem lastWrite_finderWrites {w : Nat} (hw : 21 ≤ w) (hr : r < w) (hc : c < w) :
    lastWrite (finderWrites w) r c =
      if r < 7 ∧ c < 7 then some (finder 0 0 r c)
      else if r < 7 ∧ w - 7 ≤ c then some (finder 0 (w - 7) r c)
      else if w - 7 ≤ r ∧ c < 7 then some (finder (w - 7) 0 r c)
      else none := by
  have hnear : ∀ x, Terms.dist x (0 + 3) ≤ 3 ↔ x < 7 := fun x => by unfold Terms.dist; omega
  have hfar : ∀ x < w, Terms.dist x (w - 7 + 3) ≤ 3 ↔ w - 7 ≤ x := fun x hx => by unfold Terms.dist; omega
  simp only [finderWrites, lastWrite_append, lastWrite_ringSquare, hnear, hfar r hr, hfar c hc, finder]
  by_cases htop : r < 7
  · have htop' : ¬ w - 7 ≤ r := by omega
    by_cases hleft : c < 7
    · have hleft' : ¬ w - 7 ≤ c := by omega
      simp [htop, htop', hleft, hleft']
    · simp [htop, htop', hleft]
  · simp [htop]

/-- Step (2), R184. -/
theorem lastWrite_separatorWrites {w : Nat} (hw : 21 ≤ w) (hr : r < w) (hc : c < w) :
    lastWrite (separatorWrites w) r c =
      if (r = 7 ∧ (c ≤ 7 ∨ w - 8 ≤ c)) ∨ (c = 7 ∧ (r ≤ 7 ∨ w - 8 ≤ r)) ∨ (c = w - 8 ∧ r ≤ 7) ∨ (r = w - 8 ∧ c ≤ 7) then some 0x01#8
      else none := by
  refine lastWrite_eq_ite ?_ fun x hx _ => ?_
  · simp only [separatorWrites, covers_flatMap, covers_cons, covers_nil, hits_setf, List.mem_range, or_false]
    refine ⟨fun ⟨i, hi, hhit⟩ => by rcases hhit with h | h | h | h | h | h <;> omega, ?_⟩
    rintro (⟨rfl, hc | hc⟩ | ⟨rfl, hr | hr⟩ | ⟨rfl, hr⟩ | ⟨rfl, hc⟩)
    · exact ⟨c, by omega, .inl ⟨rfl, rfl⟩⟩
    · exact ⟨w - 1 - c, by omega, .inr (.inr (.inl ⟨rfl, by omega⟩))⟩
    · exact ⟨r, by omega, .inr (.inl ⟨rfl, rfl⟩)⟩
    · exact ⟨w - 1 - r, by omega, .inr (.inr (.inr (.inr (.inr ⟨by omega, rfl⟩))))⟩
    · exact ⟨r, by omega, .inr (.inr (.inr (.inl ⟨rfl, rfl⟩)))⟩
    · exact ⟨c, by omega, .inr (.inr (.inr (.inr (.inl ⟨rfl, rfl⟩))))⟩
  · simp only [separatorWrites, List.mem_flatMap, List.mem_cons, List.not_mem_nil, or_false] at hx
    obtain ⟨i, -, rfl | rfl | rfl | rfl | rfl | rfl⟩ := hx <;> rfl

/-- Function modules written in pairs, mirrored at the diagonal: `p` says that one of the first of a pair is at (r, c), and `x` its
colour; `q` and `y` say it of the second. -/
theorem lastWrite_mirrored {n : Nat} {a b : Nat → Nat} {d : Nat → Bool} {p q : Prop} [Decidable p] [Decidable q] {x y : Bool}
    (hp : p ↔ ∃ i < n, a i = r ∧ b i = c) (hq : q ↔ ∃ i < n, b i = r ∧ a i = c)
    (hx : ∀ i < n, a i = r → b i = c → d i = x) (hy : ∀ i < n, b i = r → a i = c → d i = y) (hpq : p → ¬ q) :
    lastWrite ((List.range n).flatMap fun i => [setf (a i) (b i) (d i), setf (b i) (a i) (d i)]) r c =
      if p then some (function x) else if q then some (function y) else none := by
  have hcov : Covers ((List.range n).flatMap fun i => [setf (a i) (b i) (d i), setf (b i) (a i) (d i)]) r c ↔ p ∨ q := by
    simp [hp, hq, and_or_left, exists_or]
  have hval : ∀ e ∈ (List.range n).flatMap fun i => [setf (a i) (b i) (d i), setf (b i) (a i) (d i)],
      CellWrite.hits e r c → (p ∧ e.2.2 = function x) ∨ (q ∧ e.2.2 = function y) := by
    intro e he hhit
    simp only [List.mem_flatMap, List.mem_range, List.mem_cons, List.not_mem_nil, or_false] at he
    obtain ⟨i, hi, rfl | rfl⟩ := he <;> obtain ⟨hr, hc⟩ := hits_setf.1 hhit
    · exact .inl ⟨hp.2 ⟨i, hi, hr, hc⟩, by rw [← hx i hi hr hc, ← mkCell_func]; rfl⟩
    · exact .inr ⟨hq.2 ⟨i, hi, hr, hc⟩, by rw [← hy i hi hr hc, ← mkCell_func]; rfl⟩
  split_ifs with hp' hq'
  · exact lastWrite_eq_some (hcov.2 (.inl hp')) fun e he hhit => ((hval e he hhit).resolve_right fun h => hpq hp' h.1).2
  · exact lastWrite_eq_some (hcov.2 (.inr hq')) fun e he hhit => ((hval e he hhit).resolve_left fun h => hp' h.1).2
  · exact lastWrite_eq_none (mt hcov.1 (not_or.2 ⟨hp', hq'⟩))

/-- Step (3), R185. -/
theorem lastWrite_timingWrites (w : Nat) :
    lastWrite (timingWrites w) r c =
      if r = 6 ∧ 8 ≤ c ∧ c ≤ w - 9 then some (function (c % 2 = 0))
      else if c = 6 ∧ 8 ≤ r ∧ r ≤ w - 9 then some (function (r % 2 = 0))
      else none := by
  refine lastWrite_mirrored (a := fun _ => 6) (b := fun n => n + 8) ⟨fun _ => ⟨c - 8, by omega⟩, fun ⟨n, hn⟩ => by omega⟩
    ⟨fun _ => ⟨r - 8, by omega⟩, fun ⟨n, hn⟩ => by omega⟩ (fun n _ _ hc => ?_) (fun n _ hr _ => ?_) (by omega)
  · rw [← hc]
  · rw [← hr]

theorem alignmentCentres_eq_centres (ps : List Nat) : alignmentCentres ps = centres ps := by
  refine List.flatMap_congr fun a ha => ?_
  rw [← List.filterMap_eq_map, List.filterMap_filter]
  refine List.filterMap_congr fun b hb => ?_
  rw [List.mem_range] at ha hb
  have hkept : (!((a = 0 && b = 0) || (a = 0 && b + 1 = ps.length) || (a + 1 = ps.length && b = 0))) = true ↔
      ¬ (a = 0 ∧ b = 0 ∨ a = 0 ∧ b = ps.length - 1 ∨ a = ps.length - 1 ∧ b = 0) := by
    simp only [Bool.not_eq_true', Bool.or_eq_false_iff, Bool.and_eq_false_iff, decide_eq_false_iff_not]
    omega
  simp only [hkept, ite_not, Function.comp_apply]

theorem mem_centres {ps : List Nat} {y : Nat × Nat} (hy : y ∈ centres ps) : y.1 ∈ ps ∧ y.2 ∈ ps := by
  simp only [centres, List.mem_flatMap, List.mem_map, List.mem_filter, List.mem_range] at hy
  obtain ⟨a, ha, b, ⟨hb, -⟩, rfl⟩ := hy
  simp [ha, hb]

/-- Step (4), R187 and R188. -/
theorem lastWrite_alignmentWrites {ps : List Nat} (hps : ∀ x ∈ ps, 2 ≤ x) :
    lastWrite (alignmentWrites ps) r c =
      ((centres ps).reverse.find? fun y => Terms.dist r y.1 ≤ 2 && Terms.dist c y.2 ≤ 2).map fun y =>
        function (max (Terms.dist r y.1) (Terms.dist c y.2) ≠ 1) := by
  rw [alignmentWrites, alignmentCentres_eq_centres, lastWrite_flatMap]
  have hcentre : ∀ y ∈ (centres ps).reverse, lastWrite (ringSquare 2 1 (y.1 - 2) (y.2 - 2)) r c =
      if Terms.dist r y.1 ≤ 2 && Terms.dist c y.2 ≤ 2 then
        some (function (max (Terms.dist r y.1) (Terms.dist c y.2) ≠ 1))
      else none := by
    intro y hy
    obtain ⟨h1, h2⟩ := mem_centres (List.mem_reverse.1 hy)
    rw [lastWrite_ringSquare, Nat.sub_add_cancel (hps _ h1), Nat.sub_add_cancel (hps _ h2)]
    simp
  exact findSome?_eq_map_find? hcentre

/-- Step (5), R190. -/
theorem lastWrite_versionWrites (v : Nat) :
    lastWrite (versionWrites v (width v)) r c =
      if 7 ≤ v ∧ r < 6 ∧ width v - 11 ≤ c ∧ c < width v - 8 then
        some (function ((verWord v).getLsbD (3 * r + (c - (width v - 11)))))
      else if 7 ≤ v ∧ c < 6 ∧ width v - 11 ≤ r ∧ r < width v - 8 then
        some (function ((verWord v).getLsbD (3 * c + (r - (width v - 11)))))
      else none := by
  by_cases hv : 7 ≤ v
  · have hw : 45 ≤ width v := by unfold width; omega
    generalize width v = w at hw
    rw [versionWrites, if_pos hv]
    refine lastWrite_mirrored (a := fun i => i / 3) (b := fun i => w - 11 + i % 3) ⟨fun _ => ⟨3 * r + (c - (w - 11)), by omega⟩, ?_⟩
      ⟨fun _ => ⟨3 * c + (r - (w - 11)), by omega⟩, ?_⟩ (fun i _ hr hc => ?_) (fun i _ hr hc => ?_) (by omega)
    · rintro ⟨i, hi, rfl, rfl⟩
      exact ⟨hv, by omega, by omega, by omega⟩
    · rintro ⟨i, hi, rfl, rfl⟩
      exact ⟨hv, by omega, by omega, by omega⟩
    · rw [show 3 * r + (c - (w - 11)) = i by omega]
    · rw [show 3 * c + (r - (w - 11)) = i by omega]
  · simp [versionWrites, hv, lastWrite]

/-- Step (6), R191. -/
theorem lastWrite_formatWrites {w : Nat} (hw : 21 ≤ w) (hr : r < w) (hc : c < w) :
    lastWrite (formatWrites w) r c =
      if (c = 8 ∧ (r ≤ 5 ∨ r = 7 ∨ r = 8 ∨ w - 7 ≤ r)) ∨ (r = 8 ∧ (c ≤ 5 ∨ c = 7 ∨ w - 8 ≤ c)) then some 0x03#8 else none := by
  refine lastWrite_eq_ite ?_ fun x hx _ => ?_
  · have hcov : Covers (formatWrites w) r c ↔ ∃ k, formatPosition w k r c := by
      simp only [formatWrites, covers_map, hits_setfmt, ← mem_formatPositions hw]
      exact ⟨fun ⟨⟨_, _, k⟩, hp, rfl, rfl⟩ => ⟨k, hp⟩, fun ⟨k, hp⟩ => ⟨_, hp, rfl, rfl⟩⟩
    rw [hcov]
    unfold formatPosition
    refine ⟨fun ⟨k, hk⟩ => by rcases hk with h | h | h | h | h | h | h <;> omega, ?_⟩
    rintro (⟨rfl, h | h | h | h⟩ | ⟨rfl, h | h | h⟩)
    · exact ⟨r, .inl ⟨h, rfl, rfl⟩⟩
    · exact ⟨6, .inr (.inl ⟨rfl, h, rfl⟩)⟩
    · exact ⟨7, .inr (.inr (.inl ⟨rfl, h, rfl⟩))⟩
    · exact ⟨r + 15 - w, .inr (.inr (.inr (.inr (.inr (.inr ⟨by omega, by omega, by omega, rfl⟩)))))⟩
    · exact ⟨14 - c, .inr (.inr (.inr (.inr (.inl ⟨by omega, by omega, rfl, by omega⟩))))⟩
    · exact ⟨8, .inr (.inr (.inr (.inl ⟨rfl, rfl, h⟩)))⟩
    · exact ⟨w - 1 - c, .inr (.inr (.inr (.inr (.inr (.inl ⟨by omega, rfl, by omega⟩)))))⟩
  · obtain ⟨p, -, rfl⟩ := List.mem_map.1 hx
    rfl

/-- Step (7), R192. -/
theorem lastWrite_darkModuleWrite (w : Nat) :
    lastWrite [darkModuleWrite w] r c = if r = w - 8 ∧ c = 8 then some 0x05#8 else none := by
  refine lastWrite_eq_ite ?_ fun x hx _ => ?_
  · simp [darkModuleWrite, eq_comm]
  · rw [List.mem_singleton.1 hx]
    rfl

/-! ### The layout -/

theorem symbolWidth_eq_width {v : Nat} (hv : 1 ≤ v) : symbolWidth v = width v := by
  unfold symbolWidth width
  omega

theorem getD_ite_some {p : Prop} [Decidable p] (a b : Byte) (o : Option Byte) :
    (if p then some a else o).getD b = if p then a else o.getD b := by
  split <;> rfl

theorem getD_ite_some_or {p : Prop} [Decidable p] (a b : Byte) (o o' : Option Byte) :
    ((if p then some a else o).or o').getD b = if p then a else (o.or o').getD b := by
  split <;> rfl

theorem layout_cell_eq {v : Nat} {ps : List Nat} (h : geometryLegal v ps) (hr : r < width v) (hc : c < width v) :
    (layout v ps).cell r c = layoutCell v ps r c := by
  obtain ⟨hv, -, hps⟩ := h
  have hw := width_ge hv
  simp only [layout, layoutWrites, layoutCell, symbolWidth_eq_width hv, Grid.cell_putAll_eq_lastWrite (Grid.square_blank _) _ hr hc,
    Grid.cell_blank, lastWrite_append, lastWrite_darkModuleWrite, lastWrite_formatWrites hw hr hc, lastWrite_versionWrites,
    lastWrite_alignmentWrites fun x hx => (hps x hx).1, lastWrite_timingWrites, lastWrite_separatorWrites hw hr hc,
    lastWrite_finderWrites hw hr hc, getD_ite_some_or, Option.none_or]
  cases (centres ps).reverse.find? fun y => Terms.dist r y.1 ≤ 2 && Terms.dist c y.2 ≤ 2 with
  | none => simp only [Option.map_none, Option.none_or, getD_ite_some_or, getD_ite_some, Option.getD_none]
  | some y => rfl

end

/-- Settles O21: each step of R181 writes its region, and of the steps that write a cell the last one counts. -/
theorem layoutCellByCell : Obligations.LayoutCellByCell := fun v ps h r hr c hc => by
  rw [symbolWidth_eq_width h.1] at hr hc
  exact layout_cell_eq h hr hc

end Sys2Proof.Machine
end

section

/-! The version and format words (spec/43_matrix.md R189, spec/44_mask.md R231, R232). -/

namespace Sys2Proof.Machine

open Sys2Proof.Terms

/-- A version word is its version over a multiple of the BCH generator (R189). -/
theorem verWord_codeword : ∀ v, 7 ≤ v → v ≤ 40 → (verWord v).toNat / 4096 = v ∧ binaryRem 0x1F25 12 17 (verWord v).toNat = 0 := by
  decide +kernel

/-- A format word less the mask constant is its data over a multiple of the BCH generator (R232). -/
theorem fmtWord_codeword : ∀ lvl < 4, ∀ m < 8,
    let x := (fmtWord (BitVec.ofNat 2 lvl) (BitVec.ofNat 3 m) ^^^ 0x5412#15).toNat
    x / 1024 = 8 * [1, 0, 3, 2].getD lvl 0 + m ∧ binaryRem 0x537 10 14 x = 0 := by
  decide +kernel

/-- Settles O22: both words are finite tables, of 34 versions and of 32 pairs of level and mask. -/
theorem informationWords : Obligations.InformationWords :=
  ⟨verWord_codeword, fmtWord_codeword, by decide, by decide, by decide, by decide⟩

end Sys2Proof.Machine
end

section

/-! The traversal of the free modules (spec/43_matrix.md R204, R206). -/

namespace Sys2Proof.Machine

open Sys2Proof.Terms

/-! ### The strips -/

/-- The right column of the `n`-th strip from the left, where column 6 is in no strip (R204). -/
def rightColumn (n : Nat) : Nat := if 3 < n then 2 * n else 2 * n - 1

/-- Where the loop of R204 stands when `n` strips are left: on column 6 with 3 left. -/
def loopColumn (n : Nat) : Nat := if 3 ≤ n then 2 * n else 2 * n - 1

theorem stripColumns_eq {fuel n : Nat} (h : n ≤ fuel) :
    stripColumns fuel (loopColumn n) = (List.range n).map fun s => rightColumn (n - s) := by
  induction n generalizing fuel with
  | zero => cases fuel <;> rfl
  | succ n ih =>
    obtain ⟨fuel, rfl⟩ : ∃ f, fuel = f + 1 := ⟨fuel - 1, by omega⟩
    have hpos : loopColumn (n + 1) ≠ 0 := by unfold loopColumn; split <;> omega
    have hhere : (if loopColumn (n + 1) = 6 then 5 else loopColumn (n + 1)) = rightColumn (n + 1) := by
      unfold loopColumn rightColumn
      split_ifs <;> omega
    have hnext : rightColumn (n + 1) - 2 = loopColumn n := by
      unfold loopColumn rightColumn
      split_ifs <;> omega
    simp only [stripColumns, if_neg hpos, hhere, hnext, ih (Nat.le_of_succ_le_succ h), List.range_succ_eq_map, List.map_cons,
      List.map_map, Nat.sub_zero, Function.comp_def, Nat.succ_eq_add_one, Nat.add_sub_add_right]

/-! ### The traversal -/

/-- The row of visit `n` of strip `s`: upward in even strips. -/
def visitRow (w s n : Nat) : Nat := if s % 2 = 0 then w - 1 - n else n

/-- The two cells of visit `n` of strip `s`, of `m` strips. -/
def visitCells (w m s n : Nat) : List (Nat × Nat) :=
  [(visitRow w s n, rightColumn (m - s)), (visitRow w s n, rightColumn (m - s) - 1)]

/-- A symbol has an odd width, `m` strips and column 6. -/
theorem zigzag_eq {w m : Nat} (hw : w = 2 * m + 1) (hm : 3 ≤ m) :
    zigzag w = (List.range m).flatMap fun s => (List.range w).flatMap (visitCells w m s) := by
  have hloop : w - 1 = loopColumn m := by rw [loopColumn, if_pos hm]; omega
  have hzip : ((List.range m).map fun s => rightColumn (m - s)).zipIdx = (List.range m).map fun s => (rightColumn (m - s), s) := by
    refine List.ext_getElem? fun i => ?_
    rw [List.getElem?_zipIdx]
    simp only [List.getElem?_map, Nat.zero_add]
    rcases Nat.lt_or_ge i m with h | h <;> simp [h]
  rw [zigzag, hloop, stripColumns_eq (by omega), hzip, List.flatMap_map, ← hloop]
  rfl

theorem length_flatMap_of_length {α : Type} {g : Nat → List α} {m k : Nat} (hlen : ∀ j, (g j).length = k) :
    ((List.range m).flatMap g).length = m * k := by
  simp [List.length_flatMap, hlen]

/-- An element of a list of rows of `k` elements each. -/
theorem getElem?_flatMap_of_length {α : Type} {g : Nat → List α} {m k j i : Nat} (hlen : ∀ j, (g j).length = k) (hj : j < m)
    (hi : i < k) : ((List.range m).flatMap g)[j * k + i]? = (g j)[i]? := by
  have hi' : i < (g j).length := by rwa [hlen]
  have hrows : ∀ j', ((List.range k).map fun i' => (g j').getD i' (g j)[i]) = g j' := fun j' => by
    rw [← hlen j', map_getD_range]
  have hget := getElem?_flatMap_rows (fun j' i' => (g j').getD i' (g j)[i]) hj hi
  simp only [hrows] at hget
  rw [hget, List.getElem?_eq_getElem hi', List.getD_eq_getElem _ _ hi']

section

variable {w m : Nat}

theorem length_visits (s : Nat) : ((List.range w).flatMap (visitCells w m s)).length = w * 2 :=
  length_flatMap_of_length fun _ => rfl

theorem length_zigzag (hw : w = 2 * m + 1) (hm : 3 ≤ m) : (zigzag w).length = w * (w - 1) := by
  rw [zigzag_eq hw hm, length_flatMap_of_length length_visits, show w - 1 = 2 * m by omega]
  ring

theorem getElem?_zigzag (hw : w = 2 * m + 1) (hm : 3 ≤ m) {s n i : Nat} (hs : s < m) (hn : n < w) (hi : i < 2) :
    (zigzag w)[2 * (s * w + n) + i]? = (visitCells w m s n)[i]? := by
  rw [zigzag_eq hw hm, show 2 * (s * w + n) + i = s * (w * 2) + (n * 2 + i) by ring,
    getElem?_flatMap_of_length length_visits hs (by omega),
    getElem?_flatMap_of_length (g := visitCells w m s) (fun _ => rfl) hn hi]

end

theorem symbolWidth_odd (v : Nat) : ∃ m, 10 ≤ m ∧ symbolWidth v = 2 * m + 1 := ⟨10 + 2 * (v - 1), by omega, by unfold symbolWidth; omega⟩

/-- Settles O23: the visits in closed form. -/
theorem zigzagOrder : Obligations.ZigzagOrder := by
  intro v _ w
  obtain ⟨m, hm, hw : w = 2 * m + 1⟩ := symbolWidth_odd v
  refine ⟨length_zigzag hw (by omega), fun s hs n hn => ?_⟩
  have hs' : s < m := by omega
  have hright : rightColumn (m - s) = if 6 < w - 1 - 2 * s then w - 1 - 2 * s else w - 2 - 2 * s := by
    unfold rightColumn
    split_ifs <;> omega
  rw [← hright]
  exact ⟨getElem?_zigzag hw (by omega) hs' hn Nat.two_pos, getElem?_zigzag hw (by omega) hs' hn Nat.one_lt_two⟩

/-! ### Every cell outside column 6 once -/

theorem mem_zigzag_bounds {w m r c : Nat} (hw : w = 2 * m + 1) (hm : 3 ≤ m) (h : (r, c) ∈ zigzag w) : r < w ∧ c < w ∧ c ≠ 6 := by
  simp only [zigzag_eq hw hm, List.mem_flatMap, List.mem_range, visitCells, List.mem_cons, Prod.mk.injEq, List.not_mem_nil,
    or_false] at h
  obtain ⟨s, hs, n, hn, hvisit⟩ := h
  have hr : visitRow w s n < w := by unfold visitRow; split <;> omega
  have hc : rightColumn (m - s) < w ∧ rightColumn (m - s) ≠ 6 ∧ rightColumn (m - s) - 1 ≠ 6 := by
    unfold rightColumn
    split <;> omega
  rcases hvisit with ⟨rfl, rfl⟩ | ⟨rfl, rfl⟩
  · exact ⟨hr, hc.1, hc.2.1⟩
  · exact ⟨hr, by omega, hc.2.2⟩

/-- The traversal is as long as the set of cells it visits. -/
theorem nodup_zigzag {v : Nat} (hv : 1 ≤ v) : (zigzag (width v)).Nodup := by
  obtain ⟨m, hm, hw⟩ := symbolWidth_odd v
  rw [symbolWidth_eq_width hv] at hw
  have hset : (zigzag (width v)).toFinset = Finset.range (width v) ×ˢ (Finset.range (width v)).erase 6 := by
    ext ⟨r, c⟩
    simp only [List.mem_toFinset, Finset.mem_product, Finset.mem_range, Finset.mem_erase]
    exact ⟨fun h => by have := mem_zigzag_bounds hw (by omega) h; omega, fun ⟨hr, hc6, hc⟩ => mem_zigzag hv hr hc hc6⟩
  rw [← Multiset.coe_nodup, ← Multiset.toFinset_card_eq_card_iff_nodup, Multiset.coe_card, length_zigzag hw (by omega)]
  show (zigzag (width v)).toFinset.card = _
  rw [hset, Finset.card_product, Finset.card_erase_of_mem (Finset.mem_range.2 (by omega)), Finset.card_range]

end Sys2Proof.Machine
end

section

/-! The free modules of a symbol: their order and their number (spec/43_matrix.md R200, R205, R206). -/

namespace Sys2Proof.Machine

open Sys2Proof.Terms

/-! ### Kinds of the layout's cells -/

section

variable {v r c : Nat} {ps : List Nat}

/-- A cell of the layout is free exactly if it is 0x00. -/
theorem cellKind_layout_eq_empty (hv : 1 ≤ v) (hr : r < width v) (hc : c < width v) :
    cellKind ((layout v ps).cell r c) = .empty ↔ (layout v ps).cell r c = 0#8 := by
  refine ⟨fun h => ?_, fun h => by rw [h]; rfl⟩
  cases layoutCellKind hv ps hr hc with
  | function d hcell => simp [hcell] at h
  | format hcell => simp [hcell] at h
  | free hcell => exact hcell

/-- A layout has no data modules. -/
theorem cellKind_layout_ne_data (hv : 1 ≤ v) (hr : r < width v) (hc : c < width v) : cellKind ((layout v ps).cell r c) ≠ .data := by
  cases layoutCellKind hv ps hr hc with
  | function d hcell => simp [hcell]
  | format hcell => simp [hcell]
  | free hcell => rw [hcell]; decide

/-- Column 6 crosses no format position (R206). -/
theorem cellKind_layout_column6 (hv : 1 ≤ v) (hr : r < width v) : cellKind ((layout v ps).cell r 6) = .func := by
  have hw := width_ge hv
  cases layoutCellKind hv ps hr (show 6 < width v by omega) with
  | function d hcell => simp [hcell]
  | format _ hpos =>
    refine absurd ((formatIndex_eq_none hw).2 fun k hk => ?_) hpos
    unfold formatPosition at hk
    omega
  | free hcell => exact absurd (by rw [hcell]; rfl) (layout_column6 hv ps hr)

end

/-! ### Counting over the symbol -/

/-- A square matrix is the table of its cells. -/
theorem Grid.eq_map_cell {w : Nat} {g : Grid} (h : g.square w) :
    g = (List.range w).map fun r => (List.range w).map fun c => g.cell r c := by
  refine List.ext_getElem (by simp [h.1]) fun r hr _ => ?_
  have hrow : g[r].length = w := h.2 _ (List.getElem_mem hr)
  refine List.ext_getElem (by simp [hrow]) fun c hc _ => ?_
  simp [Grid.cell, hr, hc]

/-- The cells of a symbol of width `w`. -/
def symbolCells (w : Nat) : List (Nat × Nat) := List.range w ×ˢ List.range w

theorem nodup_symbolCells (w : Nat) : (symbolCells w).Nodup := List.nodup_range.product List.nodup_range

theorem mem_symbolCells {w r c : Nat} : (r, c) ∈ symbolCells w ↔ r < w ∧ c < w := by
  simp [symbolCells]

theorem countP_symbolCells (w : Nat) (p : Nat × Nat → Bool) :
    (symbolCells w).countP p = ((List.range w).map fun r => (List.range w).countP fun c => p (r, c)).sum := by
  simp [symbolCells, SProd.sprod, List.product, List.countP_flatMap, List.countP_map, Function.comp_def]

/-! ### The free modules of a legal layout -/

theorem mem_zigzag_iff {v r c : Nat} (hv : 1 ≤ v) : (r, c) ∈ zigzag (width v) ↔ r < width v ∧ c < width v ∧ c ≠ 6 := by
  obtain ⟨m, hm, hw⟩ := symbolWidth_odd v
  rw [symbolWidth_eq_width hv] at hw
  exact ⟨mem_zigzag_bounds hw (by omega), fun ⟨hr, hc, hc6⟩ => mem_zigzag hv hr hc hc6⟩

section

variable {v : Nat} {ps : List Nat} (h : geometryLegal v ps)

include h

theorem cellKind_layout_eq_empty_iff {r c : Nat} (hr : r < width v) (hc : c < width v) :
    cellKind ((layout v ps).cell r c) = .empty ↔ layoutCell v ps r c = 0#8 := by
  rw [cellKind_layout_eq_empty h.1 hr hc, layout_cell_eq h hr hc]

theorem freeModules_layout : freeModules (layout v ps) = freeCount v ps := by
  rw [freeModules, Grid.eq_map_cell (Grid.square_layout v ps), List.map_map, freeCount, symbolWidth_eq_width h.1]
  refine congrArg List.sum (List.map_congr_left fun r hr => ?_)
  rw [Function.comp_apply, List.countP_map]
  refine List.countP_congr fun c hc => ?_
  rw [List.mem_range] at hr hc
  simpa using cellKind_layout_eq_empty_iff h hr hc

theorem freeOrder_layout : freeOrder (width v) (layout v ps) = freeModuleOrder v ps := by
  rw [freeOrder, freeModuleOrder, symbolWidth_eq_width h.1]
  refine List.filter_congr fun ⟨r, c⟩ hq => ?_
  obtain ⟨hr, hc, -⟩ := (mem_zigzag_iff h.1).1 hq
  exact decide_eq_decide.2 (cellKind_layout_eq_empty_iff h hr hc)

theorem nodup_freeModuleOrder : (freeModuleOrder v ps).Nodup := by
  rw [freeModuleOrder, symbolWidth_eq_width h.1]
  exact (nodup_zigzag h.1).filter _

/-- Column 6 holds no free module, so the traversal misses none. -/
theorem mem_freeModuleOrder {r c : Nat} :
    (r, c) ∈ freeModuleOrder v ps ↔ (r < width v ∧ c < width v) ∧ layoutCell v ps r c = 0#8 := by
  rw [freeModuleOrder, symbolWidth_eq_width h.1, List.mem_filter, mem_zigzag_iff h.1, decide_eq_true_eq]
  refine ⟨fun ⟨⟨hr, hc, _⟩, hfree⟩ => ⟨⟨hr, hc⟩, hfree⟩, fun ⟨⟨hr, hc⟩, hfree⟩ => ⟨⟨hr, hc, ?_⟩, hfree⟩⟩
  rintro rfl
  exact layout_column6 h.1 ps hr ((cellKind_layout_eq_empty_iff h hr hc).2 hfree)

theorem length_freeModuleOrder : (freeModuleOrder v ps).length = freeCount v ps := by
  have hperm : (freeModuleOrder v ps).Perm ((symbolCells (width v)).filter fun q => layoutCell v ps q.1 q.2 = 0#8) :=
    (List.perm_ext_iff_of_nodup (nodup_freeModuleOrder h) ((nodup_symbolCells _).filter _)).2 fun ⟨r, c⟩ => by
      rw [mem_freeModuleOrder h, List.mem_filter, mem_symbolCells, decide_eq_true_eq]
  rw [hperm.length_eq, ← List.countP_eq_length_filter, countP_symbolCells, freeCount, symbolWidth_eq_width h.1]

end

/-! ### The built matrix -/

section

variable {p : Params} (h : geometryLegal p.v p.alignList) (cbuf : Memory)

include h

theorem Params.freeCount_eq : p.freeCount = Terms.freeCount p.v p.alignList := by
  unfold Params.freeCount
  exact freeModules_layout h

/-- No cell of a built matrix is EMPTY (R206). -/
theorem cellKind_builtGrid_ne_empty {r c : Nat} (hr : r < width p.v) (hc : c < width p.v) :
    cellKind ((builtGrid p cbuf).cell r c) ≠ .empty := by
  obtain ⟨-, b, hcell⟩ | ⟨hne, hcell⟩ := builtGrid_cell h.1 cbuf hr hc
  · simp [hcell]
  · rwa [hcell]

/-- The data modules of a built matrix are the free modules of its layout. -/
theorem cellKind_builtGrid_eq_data {r c : Nat} (hr : r < width p.v) (hc : c < width p.v) :
    cellKind ((builtGrid p cbuf).cell r c) = .data ↔ layoutCell p.v p.alignList r c = 0#8 := by
  rw [← cellKind_layout_eq_empty_iff h hr hc]
  obtain ⟨hfree, b, hcell⟩ | ⟨hne, hcell⟩ := builtGrid_cell h.1 cbuf hr hc
  · simp [hcell, hfree]
  · simp [hcell, hne, cellKind_layout_ne_data h.1 hr hc]

/-- Function and format modules keep their layout cell. -/
theorem builtGrid_cell_of_ne_zero {r c : Nat} (hr : r < width p.v) (hc : c < width p.v)
    (hne : layoutCell p.v p.alignList r c ≠ 0#8) : (builtGrid p cbuf).cell r c = layoutCell p.v p.alignList r c := by
  obtain ⟨hfree, -⟩ | ⟨-, hcell⟩ := builtGrid_cell h.1 cbuf hr hc
  · exact absurd ((cellKind_layout_eq_empty_iff h hr hc).1 hfree) hne
  · rw [hcell, layout_cell_eq h hr hc]

/-- The free module q_t holds bit t of the codeword sequence (R205): no other write goes to it. -/
theorem builtGrid_cell_freeModule {t r c : Nat} (hq : (freeModuleOrder p.v p.alignList)[t]? = some (r, c)) :
    (builtGrid p cbuf).cell r c = mkCell .data (placementBit cbuf p.cwTotal t) (placementBit cbuf p.cwTotal t) := by
  obtain ⟨⟨hr, hc⟩, -⟩ := (mem_freeModuleOrder h).1 (List.mem_of_getElem? hq)
  have ht := (List.getElem?_eq_some_iff.1 hq).1
  have hlast : lastWrite (placementWrites (width p.v) p.cwTotal cbuf (layout p.v p.alignList)) r c =
      some (mkCell .data (placementBit cbuf p.cwTotal t) (placementBit cbuf p.cwTotal t)) := by
    rw [placementWrites, freeOrder_layout h]
    refine lastWrite_eq_some ⟨_, List.mem_map_of_mem (List.mk_mem_zipIdx_iff_getElem?.2 hq), rfl, rfl⟩ fun x hx hhit => ?_
    obtain ⟨⟨q, t'⟩, hq', rfl⟩ := List.mem_map.1 hx
    obtain rfl : q = (r, c) := Prod.ext hhit.1 hhit.2
    rw [List.mk_mem_zipIdx_iff_getElem?] at hq'
    rw [(List.getElem?_inj ht (nodup_freeModuleOrder h)).1 (hq.trans hq'.symm)]
  unfold builtGrid
  exact (Grid.cell_putAll_eq_lastWrite (Grid.square_layout _ _) _ hr hc).trans (by rw [hlast]; rfl)

end

end Sys2Proof.Machine
end

section

/-! MATRIX_BUILD (spec/43_matrix.md R206, R211). -/

namespace Sys2Proof

open Sys2Proof.Machine Sys2Proof.Terms

/-! ### The checks of a command that builds -/

section

variable {p : Params}

theorem not_kIllegal_iff : ¬ kIllegal p ↔ p.badK = false := by
  rw [kIllegal_iff_badK, Bool.not_eq_true]

theorem versionIllegal_iff : (p.version.toNat < 1 ∨ 40 < p.version.toNat) ↔ p.badVersion = true := by
  rw [Params.badVersion, Bool.or_eq_true, decide_eq_true_eq, decide_eq_true_eq]
  rfl

theorem versionLegal_iff : (1 ≤ p.version.toNat ∧ p.version.toNat ≤ 40) ↔ p.badVersion = false :=
  Params.badVersion_eq_false.symm

theorem alignIllegal_iff (hv : 1 ≤ p.version.toNat) : alignIllegal p ↔ p.badAlign = true := by
  simp only [alignIllegal, symbolWidth_eq_width hv, Params.badAlign, List.any_eq_true, Bool.or_eq_true, decide_eq_true_eq]
  rfl

theorem geometryLegal_iff :
    geometryLegal p.version.toNat (alignment p) ↔ p.badVersion = false ∧ p.badAlign = false := by
  have halign : (∀ x ∈ alignment p, 2 ≤ x ∧ x ≤ symbolWidth p.version.toNat - 3) ↔ ¬ alignIllegal p := by
    simp [alignIllegal, Nat.succ_le_iff]
  rw [geometryLegal, halign, ← and_assoc, versionLegal_iff]
  refine and_congr_right fun hv => ?_
  rw [alignIllegal_iff (versionLegal_iff.2 hv).1, Bool.not_eq_true]

/-- The count check, by the rules' own count (R201). -/
theorem mismatch_iff (h : geometryLegal p.version.toNat (alignment p)) :
    p.mismatch = true ↔ freeCount p.version.toNat (alignment p) ≠ 8 * cwTotal p + p.remBits.toNat := by
  rw [Params.mismatch, decide_eq_true_eq, Params.freeCount_eq h]
  rfl

end

section

variable {i : Instr} (hi : builds i) {s : State}

include hi

theorem exec_of_buildCheck {c : FaultCode} (hc : firstFault s.params.buildChecks = some c) : exec i s = .next (faulted c.code s) :=
  exec_eq_faulted_of_check (by rwa [checksOf_eq_buildChecks hi])

/-- When the earlier checks pass, the count check decides. -/
theorem exec_of_buildChecks_none (hc : firstFault s.params.buildChecks = none) :
    exec i s = .next (if s.params.mismatch then faulted 0x07#8 s.recordFreeCount else finished (s.writes i)) := by
  rw [exec_eq_concludeBuild hi, State.concludeBuild, hc]
  cases s.params.mismatch <;> rfl

/-- The checks in the order of R211, and the count check last. -/
theorem buildFaults : BuildFaults i := by
  refine fun s => ⟨exec_of_kIllegal (by rcases hi with rfl | rfl <;> simp), fun hk hl => ?_, fun hk hl hv => ?_,
    fun hk hl h1 h40 ha => ?_, fun hk hl hg hcount => ?_⟩ <;>
    rw [not_kIllegal_iff] at hk
  · rw [layoutLegal_iff_layoutOk, Bool.not_eq_true] at hl
    exact exec_of_buildCheck hi (c := .badLayout) (by simp [Params.buildChecks, firstFault_cons, hk, hl])
  all_goals rw [layoutLegal_iff_layoutOk] at hl
  · rw [versionIllegal_iff] at hv
    exact exec_of_buildCheck hi (c := .badVersion) (by simp [Params.buildChecks, firstFault_cons, hk, hl, hv])
  · have hv := versionLegal_iff.1 ⟨h1, h40⟩
    have halign := (alignIllegal_iff h1).1 ha
    exact exec_of_buildCheck hi (c := .badAlign) (by simp [Params.buildChecks, firstFault_cons, hk, hl, hv, halign])
  · obtain ⟨hv, halign⟩ := geometryLegal_iff.1 hg
    have hnone : firstFault s.params.buildChecks = none := by simp [Params.buildChecks, firstFault_cons, hk, hl, hv, halign]
    have hend := exec_of_buildChecks_none hi hnone
    rw [if_pos ((mismatch_iff hg).2 hcount)] at hend
    rw [hend, State.recordFreeCount, Params.freeCount_eq hg]
    rfl

/-- A build whose checks pass. -/
theorem exec_of_buildLegal (h : buildLegal s.params) : exec i s = .next (finished (s.writes i)) := by
  obtain ⟨hk, hl, hg, hcount⟩ := h
  have hmis : s.params.mismatch = false := by
    rw [← Bool.not_eq_true, mismatch_iff hg]
    exact not_not.2 hcount
  rw [not_kIllegal_iff] at hk
  rw [layoutLegal_iff_layoutOk] at hl
  obtain ⟨hv, halign⟩ := geometryLegal_iff.1 hg
  rw [exec_of_buildChecks_none hi (by simp [Params.buildChecks, firstFault_cons, hk, hl, hv, halign]), hmis]
  rfl

end

/-! ### MATRIX_BUILD -/

section

variable {s : State} (hg : geometryLegal s.params.version.toNat (alignment s.params)) {r c : Nat}

include hg

/-- MX after a successful build. -/
theorem readByte_buildWrites_mx (hc : c < Config.mxDim) :
    s.recordFreeCount.buildWrites.mx.readByte (mxIndex r c) = (builtGrid s.params s.cbuf).cell r c := by
  rw [State.buildWrites_mx, State.recordFreeCount_params, State.recordFreeCount_cbuf]
  exact Grid.readByte_toMemory (width_le_mxDim hg.2.1) (Grid.square_builtGrid _ _) hc

theorem moduleKind_matrixBuild (hc : c < width s.params.v) :
    (finished (s.writes .matrixBuild)).moduleKind r c = cellKind ((builtGrid s.params s.cbuf).cell r c) :=
  congrArg cellKind (readByte_buildWrites_mx hg (hc.trans_le (width_le_mxDim hg.2.1)))

end

/-- Settles O24: the traversal is a list without repetition of the cells outside column 6, the free modules are among them, and
each becomes a data module. -/
theorem builtMatrixComplete : Obligations.BuiltMatrixComplete := by
  refine ⟨fun v hv => ?_, fun v ps hg r hr => ?_, fun s h => ⟨_, exec_of_buildLegal (.inl rfl) h, ?_⟩⟩
  · rw [symbolWidth_eq_width hv]
    exact ⟨nodup_zigzag hv, fun r c => mem_zigzag_iff hv⟩
  · rw [symbolWidth_eq_width hg.1] at hr
    rw [← layout_cell_eq hg hr (Nat.lt_of_lt_of_le (by decide) (width_ge hg.1))]
    exact cellKind_layout_column6 hg.1 hr
  · have ⟨_, _, hg, hcount⟩ := h
    rw [symbolWidth_eq_width hg.1]
    refine ⟨fun r hr c hc => ?_, ?_⟩
    · exact (moduleKind_matrixBuild hg hc).trans_ne (cellKind_builtGrid_ne_empty hg s.cbuf hr hc)
    · rw [← hcount, freeCount, symbolWidth_eq_width hg.1]
      refine congrArg List.sum (List.map_congr_left fun r hr => List.countP_congr fun c hc => ?_)
      rw [List.mem_range] at hr hc
      rw [decide_eq_true_eq, decide_eq_true_eq, moduleKind_matrixBuild hg hc]
      exact cellKind_builtGrid_eq_data hg s.cbuf hr hc

theorem mkCell_data (b : Bool) : mkCell .data b b = if b then 0x0E#8 else 0x02#8 := by cases b <;> rfl

/-- Settles O25: the checks in their order, and MX read cell by cell. -/
theorem matrixBuildCommand : Obligations.MatrixBuildCommand := by
  refine ⟨plainWord (i := .matrixBuild) (by decide), buildFaults (.inl rfl), fun s h => ?_⟩
  have ⟨_, _, hg, _⟩ := h
  have hw : symbolWidth s.params.version.toNat = width s.params.v := symbolWidth_eq_width hg.1
  have hdim : width s.params.v ≤ Config.mxDim := width_le_mxDim hg.2.1
  refine ⟨s.recordFreeCount.buildWrites.mx, ?_, length_freeModuleOrder hg, fun t ht => ?_, fun r hr c hc hne => ?_, fun a ha => ?_⟩
  · rw [exec_of_buildLegal (.inl rfl) h, State.writes, State.recordFreeCount, Params.freeCount_eq hg]
    rfl
  · obtain ⟨⟨r, c⟩, hq⟩ : ∃ q, (freeModuleOrder s.params.version.toNat (alignment s.params))[t]? = some q :=
      ⟨_, List.getElem?_eq_getElem (by rwa [length_freeModuleOrder hg])⟩
    obtain ⟨⟨-, hc⟩, -⟩ := (mem_freeModuleOrder hg).1 (List.mem_of_getElem? hq)
    rw [List.getD_eq_getElem?_getD, hq]
    exact (readByte_buildWrites_mx hg (hc.trans_le hdim)).trans ((builtGrid_cell_freeModule hg s.cbuf hq).trans (mkCell_data _))
  · rw [hw] at hr hc
    exact (readByte_buildWrites_mx hg (hc.trans_le hdim)).trans (builtGrid_cell_of_ne_zero hg s.cbuf hr hc hne)
  · rw [hw] at ha
    have hread := (readByte_buildWrites_mx hg (r := a / 177) (Nat.mod_lt a (show 0 < Config.mxDim by decide))).trans
      (Grid.cell_outside (Grid.square_builtGrid _ _) ha)
    rwa [mxIndex, Config.mxDim, Nat.div_add_mod] at hread

end Sys2Proof
end

section

/-! The lines of a plane, and PEN_A: maximal runs (spec/44_mask.md R224). -/

namespace Sys2Proof.Machine

open Sys2Proof.Terms

/-! ### The lines of a plane -/

section

variable {w : Nat} {p : Plane} (hp : squarePlane w p)

include hp

theorem length_getD_plane {r : Nat} (hr : r < w) : (p.getD r []).length = w := by
  rw [List.getD_eq_getElem _ _ (hp.1.symm ▸ hr)]
  exact hp.2 _ (List.getElem_mem _)

theorem planeRow_eq {r : Nat} (hr : r < w) : planeRow w p r = p.getD r [] := by
  simpa only [planeRow, planeAt, length_getD_plane hp hr] using map_getD_range (p.getD r []) false

theorem map_planeRow : (List.range w).map (planeRow w p) = p := by
  rw [List.map_congr_left fun r hr => planeRow_eq hp (List.mem_range.1 hr), ← hp.1, map_getD_range]

theorem map_planeColumn : (List.range w).map (planeColumn w p) = columns w p := by
  refine List.map_congr_left fun c _ => ?_
  conv_rhs => rw [← map_getD_range p [], List.map_map, hp.1]
  rfl

/-- The rows and the columns are the lines the rules sum over. -/
theorem sum_lines (f : List Bool → Nat) : ((lines w p).map f).sum = overLines w p f := by
  have hrows : p.map f = (List.range w).map fun r => f (planeRow w p r) :=
    (congrArg (List.map f) (map_planeRow hp)).symm.trans List.map_map
  rw [lines, List.map_append, List.sum_append, hrows, ← map_planeColumn hp, List.map_map]
  rfl

end

theorem length_planeRow (w : Nat) (p : Plane) (r : Nat) : (planeRow w p r).length = w := by simp [planeRow]

theorem length_planeColumn (w : Nat) (p : Plane) (c : Nat) : (planeColumn w p c).length = w := by simp [planeColumn]

/-- Rules that agree on every line of the plane's width agree on the plane. -/
theorem overLines_congr {w : Nat} {p : Plane} {f g : List Bool → Nat} (h : ∀ l : List Bool, l.length = w → f l = g l) :
    overLines w p f = overLines w p g := by
  unfold overLines
  rw [List.map_congr_left fun r _ => h _ (length_planeRow w p r), List.map_congr_left fun c _ => h _ (length_planeColumn w p c)]

/-! ### Maximal runs, by the first run of a line -/

/-- What the run that starts at `x` scores, if one does. -/
def startPenalty (l : List Bool) (x : Nat) : Nat :=
  ∑ n ∈ Finset.range (l.length + 1), if 5 ≤ n && isRun l x n then 3 + (n - 5) else 0

theorem runPenalty_eq (l : List Bool) : runPenalty l = ∑ x ∈ Finset.range l.length, startPenalty l x := rfl

/-- A run of `len` modules that starts at `x` is the only one that does. -/
theorem startPenalty_eq_runScore {l : List Bool} {x len : Nat} (hlen : len ≤ l.length) (h : ∀ n, isRun l x n = true ↔ n = len) :
    startPenalty l x = runScore len := by
  have hterm : ∀ n, (if 5 ≤ n && isRun l x n then 3 + (n - 5) else 0) = if n = len then runScore len else 0 := by
    intro n
    by_cases hn : n = len
    · subst hn
      simp [(h n).2 rfl, runScore]
    · simp [(h n).not.2 hn, hn]
  rw [startPenalty, Finset.sum_congr rfl fun n _ => hterm n, Finset.sum_ite_eq', if_pos (Finset.mem_range.2 (by omega))]

theorem startPenalty_eq_zero {l : List Bool} {x : Nat} (h : ∀ n, isRun l x n = false) : startPenalty l x = 0 :=
  Finset.sum_eq_zero fun n _ => by simp [h n]

theorem isRun_iff {l : List Bool} {x n : Nat} : isRun l x n = true ↔
    0 < n ∧ x + n ≤ l.length ∧ (∀ i < n, l.getD (x + i) false = l.getD x false) ∧
      (x = 0 ∨ l.getD (x - 1) false ≠ l.getD x false) ∧ (x + n = l.length ∨ l.getD (x + n) false ≠ l.getD x false) := by
  simp [isRun, and_assoc]

section

variable {a : Bool} {k : Nat} {rest : List Bool} (hk : 0 < k) (hrest : ∀ b ∈ rest.head?, b ≠ a)

theorem getD_run {i : Nat} (h : i < k) : (List.replicate k a ++ rest).getD i false = a := by
  simp [List.getD_eq_getElem?_getD, List.getElem?_append, h]

theorem getD_after_run (i : Nat) : (List.replicate k a ++ rest).getD (k + i) false = rest.getD i false := by
  simp [List.getD_eq_getElem?_getD, List.getElem?_append]

theorem length_run_append : (List.replicate k a ++ rest).length = k + rest.length := by simp

include hrest in
theorem head_ne_run (h : rest ≠ []) : rest.getD 0 false ≠ a := by
  cases rest with
  | nil => exact absurd rfl h
  | cons b t => simpa using hrest

include hk hrest

/-- The first run starts at 0 and ends where the colour changes. -/
theorem isRun_first (n : Nat) : isRun (List.replicate k a ++ rest) 0 n = true ↔ n = k := by
  rw [isRun_iff, length_run_append, getD_run hk]
  simp only [Nat.zero_add]
  constructor
  · rintro ⟨-, hlen, hall, -, hend⟩
    rcases Nat.lt_trichotomy n k with hlt | heq | hgt
    · rcases hend with hend | hend
      · omega
      · exact absurd (getD_run hlt) hend
    · exact heq
    · have hne : rest ≠ [] := by rintro rfl; simp at hlen; omega
      exact absurd ((getD_after_run 0).symm.trans (hall k hgt)) (head_ne_run hrest hne)
  · rintro rfl
    refine ⟨hk, by omega, fun i hi => getD_run hi, .inl trivial, ?_⟩
    by_cases hne : rest = []
    · exact .inl (by simp [hne])
    · exact .inr (fun h => head_ne_run hrest hne ((getD_after_run 0).symm.trans h))

omit hk hrest in
/-- No run starts inside the first one. -/
theorem isRun_inside {x : Nat} (hx : 0 < x) (hxk : x < k) (n : Nat) : isRun (List.replicate k a ++ rest) x n = false := by
  rw [Bool.eq_false_iff]
  intro h
  obtain ⟨-, -, -, hstart, -⟩ := isRun_iff.1 h
  rcases hstart with hstart | hstart
  · omega
  · exact hstart ((getD_run (by omega)).trans (getD_run hxk).symm)

/-- The runs after the first one are those of the rest of the line. -/
theorem isRun_after (y n : Nat) : isRun (List.replicate k a ++ rest) (k + y) n = isRun rest y n := by
  rw [Bool.eq_iff_iff, isRun_iff, isRun_iff, length_run_append]
  simp only [Nat.add_assoc, getD_after_run, Nat.add_le_add_iff_left, Nat.add_left_cancel_iff]
  refine and_congr_right fun hn => and_congr_right fun hlen => and_congr_right fun _ => and_congr_left fun _ => ?_
  rcases y with _ | y
  · have hne : rest ≠ [] := by rintro rfl; simp at hlen; omega
    rw [getD_run (show k + 0 - 1 < k by omega)]
    simpa [hk.ne'] using (head_ne_run hrest hne).symm
  · rw [show k + (y + 1) - 1 = k + y from rfl, getD_after_run]
    simp

theorem startPenalty_after (y : Nat) : startPenalty (List.replicate k a ++ rest) (k + y) = startPenalty rest y := by
  unfold startPenalty
  rw [length_run_append]
  simp only [isRun_after hk hrest]
  refine (Finset.sum_subset (by simp) fun n _ hn => ?_).symm
  have : isRun rest y n ≠ true := fun h => by
    have := (isRun_iff.1 h).2.1
    simp at hn; omega
  simp [this]

/-- Rule (a) on a line: the score of the first run, and that of the rest. -/
theorem runPenalty_run_append : runPenalty (List.replicate k a ++ rest) = runScore k + runPenalty rest := by
  have hfirst : ∑ x ∈ Finset.range k, startPenalty (List.replicate k a ++ rest) x = runScore k := by
    rw [Finset.sum_eq_single_of_mem 0 (Finset.mem_range.2 hk) fun x hx hx0 =>
      startPenalty_eq_zero (isRun_inside (Nat.pos_of_ne_zero hx0) (Finset.mem_range.1 hx))]
    exact startPenalty_eq_runScore (by simp) (isRun_first hk hrest)
  rw [runPenalty_eq, length_run_append, Finset.sum_range_add, hfirst, runPenalty_eq]
  exact congrArg _ (Finset.sum_congr rfl fun y _ => startPenalty_after hk hrest y)

end

theorem sum_runsFrom (l : List Bool) (a : Bool) {n : Nat} (hn : 0 < n) :
    ((runsFrom a n l).map runScore).sum = runPenalty (List.replicate n a ++ l) := by
  induction l generalizing a n with
  | nil => exact (runPenalty_run_append (a := a) (rest := []) hn (by simp)).symm
  | cons x xs ih =>
    unfold runsFrom
    split
    · next h =>
      subst h
      rw [ih x (Nat.succ_pos n), List.replicate_succ', List.append_assoc]
      rfl
    · next h =>
      rw [runPenalty_run_append hn (by simpa using h), List.map_cons, List.sum_cons, ih x Nat.one_pos]
      rfl

/-- The scan of a line finds its maximal runs. -/
theorem lineRuns_eq_runPenalty (l : List Bool) : lineRuns l = runPenalty l := by
  cases l with
  | nil => rfl
  | cons x xs => exact sum_runsFrom xs x Nat.one_pos

/-- Settles O28: on every line, by its first run and the rest after it. -/
theorem penaltyRunsRule : Obligations.PenaltyRunsRule := fun _ _ hp =>
  (sum_lines hp lineRuns).trans (overLines_congr fun l _ => lineRuns_eq_runPenalty l)

end Sys2Proof.Machine
end

section

/-! PEN_B, PEN_C and PEN_D, and the bounds of the four (spec/44_mask.md R225 to R228). -/

namespace Sys2Proof.Machine

open Sys2Proof.Terms

/-! ### Blocks (R225) -/

/-- What the window of two by two modules at column `c` of two adjacent rows scores. -/
def windowScore (r₁ r₂ : List Bool) (c : Nat) : Nat :=
  if r₁.getD c false = r₁.getD (c + 1) false ∧ r₁.getD c false = r₂.getD c false ∧ r₁.getD c false = r₂.getD (c + 1) false then 3
  else 0

theorem rowBlocks_eq (r₁ r₂ : List Bool) (h : r₁.length = r₂.length) :
    rowBlocks r₁ r₂ = ((List.range (r₁.length - 1)).map (windowScore r₁ r₂)).sum := by
  induction r₁, r₂ using rowBlocks.induct with
  | case1 a b t c d u ih =>
    rw [rowBlocks, ih (Nat.succ.inj h)]
    exact (List.sum_range_succ' (windowScore (a :: b :: t) (c :: d :: u)) t.length).symm
  | case2 r₁ r₂ hshort =>
    have hlen : r₁.length - 1 = 0 := by
      match r₁, r₂, hshort with
      | [], _, _ => rfl
      | [_], _, _ => rfl
      | a :: b :: t, c :: d :: u, hshort => exact absurd rfl (hshort a b t c d u rfl)
    rw [rowBlocks.eq_2 _ _ hshort, hlen]
    rfl

theorem penaltyB_eq (p : Plane) :
    penaltyB p = ((List.range (p.length - 1)).map fun r => rowBlocks (p.getD r []) (p.getD (r + 1) [])).sum := by
  induction p using penaltyB.induct with
  | case1 r₁ r₂ rest ih =>
    rw [penaltyB, ih]
    exact (List.sum_range_succ' (fun r => rowBlocks ((r₁ :: r₂ :: rest).getD r []) ((r₁ :: r₂ :: rest).getD (r + 1) []))
      rest.length).symm
  | case2 p hshort =>
    match p, hshort with
    | [], _ => rfl
    | [_], _ => rfl
    | r₁ :: r₂ :: rest, hshort => exact absurd rfl (hshort r₁ r₂ rest)

/-- PEN_B window by window. -/
theorem penaltyB_eq_windows {w : Nat} {p : Plane} (hp : squarePlane w p) :
    penaltyB p = ((List.range (w - 1)).map fun r =>
      ((List.range (w - 1)).map (windowScore (p.getD r []) (p.getD (r + 1) []))).sum).sum := by
  rw [penaltyB_eq, hp.1]
  refine congrArg List.sum (List.map_congr_left fun r hr => ?_)
  have hr := List.mem_range.1 hr
  have hlen := length_getD_plane hp (show r < w by omega)
  rw [rowBlocks_eq _ _ (hlen.trans (length_getD_plane hp (show r + 1 < w by omega)).symm), hlen]

/-- Settles O29: the two scans visit every window once. -/
theorem penaltyBlocksRule : Obligations.PenaltyBlocksRule :=
  ⟨fun _ _ hp => penaltyB_eq_windows hp, by decide⟩

/-! ### Finder-like patterns (R226) -/

/-- The line with four light modules on each side holds the modules four places on. -/
theorem getD_padded (l : List Bool) (i : Nat) :
    (List.replicate 4 false ++ l ++ List.replicate 4 false).getD i false = moduleAt l ((i : Int) - 4) := by
  unfold moduleAt
  split
  · next h =>
    rw [List.append_assoc, List.getD_append _ _ _ _ (by simp; omega), List.getD_replicate _ (by omega)]
  · next h =>
    have hi : ((i : Int) - 4).toNat = i - 4 := by omega
    rw [List.append_assoc, List.getD_append_right _ _ _ _ (by simp; omega), hi, List.length_replicate]
    by_cases hl : i - 4 < l.length
    · rw [List.getD_append _ _ _ _ hl]
    · rw [List.getD_append_right _ _ _ _ (by omega), List.getD_eq_default (l := l) (hn := by omega),
        List.getD_eq_getElem?_getD, List.getElem?_getD_replicate_default_eq]

theorem sum_map_ite (l : List Nat) (q : Nat → Bool) (n : Nat) : (l.map fun x => if q x then n else 0).sum = n * l.countP q := by
  induction l with
  | nil => simp
  | cons x l ih =>
    rw [List.map_cons, List.sum_cons, ih, List.countP_cons]
    split <;> ring

/-- The window of a start holds the 15 modules from four before it on. -/
theorem window_eq {l : List Bool} {x : Nat} (h : x + 7 ≤ l.length) :
    ((List.replicate 4 false ++ l ++ List.replicate 4 false).drop x).take 15 =
      (List.range 15).map fun i : Nat => moduleAt l ((x : Int) + ((i : Int) - 4)) := by
  refine List.ext_getElem (by simp; omega) fun i hi _ => ?_
  rw [List.getElem_take, List.getElem_drop, List.getElem_map, List.getElem_range, ← List.getD_eq_getElem (d := false), getD_padded]
  congr 1
  omega

theorem finderLike_window {l : List Bool} {x : Nat} (h : x + 7 ≤ l.length) :
    finderLike (((List.replicate 4 false ++ l ++ List.replicate 4 false).drop x).take 15) = finderAt l x := by
  rw [window_eq h, finderAt]
  simp [finderLike, List.range_succ, Bool.and_assoc]

/-- Rule (c) on a line of at least 7 modules. -/
theorem lineFinders_eq {w : Nat} (hw : 7 ≤ w) {l : List Bool} (hl : l.length = w) :
    lineFinders w l = ((List.range (w - 7 + 1)).map fun x => if finderAt l x then 40 else 0).sum := by
  have hstarts : w - 7 + 1 = w - 6 := by omega
  have hcount : (List.range (w - 6)).countP (fun x =>
      finderLike (((List.replicate 4 false ++ l ++ List.replicate 4 false).drop x).take 15)) =
      (List.range (w - 6)).countP (finderAt l) :=
    List.countP_congr fun x hx => by rw [finderLike_window (by rw [List.mem_range] at hx; omega)]
  rw [lineFinders, hstarts, sum_map_ite, hcount]

/-- Settles O30: on every line, start by start. -/
theorem penaltyFinderRule : Obligations.PenaltyFinderRule := fun w _ hw hp =>
  (sum_lines hp (lineFinders w)).trans (overLines_congr fun _ hl => lineFinders_eq hw hl)

/-! ### Balance (R227) -/

theorem darkCount_eq {w : Nat} {p : Plane} (hp : squarePlane w p) :
    darkCount p = ((List.range w).map fun r => (List.range w).countP fun c => planeAt p r c).sum := by
  unfold darkCount
  conv_lhs => rw [← map_planeRow hp, List.map_map]
  refine congrArg List.sum (List.map_congr_left fun r _ => ?_)
  rw [Function.comp, planeRow, List.countP_map]
  rfl

theorem cast_absDiff (x y : Nat) : ((absDiff x y : Nat) : Rat) = |(x : Rat) - y| := by
  unfold absDiff
  rcases Nat.le_total x y with h | h
  · rw [abs_of_nonpos (by simpa using h), Nat.sub_eq_zero_of_le h, Nat.zero_add, Nat.cast_sub h, neg_sub]
  · rw [abs_of_nonneg (by simpa using h), Nat.sub_eq_zero_of_le h, Nat.add_zero, Nat.cast_sub h]

theorem penaltyD_eq_floor (w d : Nat) :
    ((penaltyD w d : Nat) : Int) = 10 * ⌊|20 * (d : Rat) - 10 * (w : Rat) ^ 2| / (w : Rat) ^ 2⌋ := by
  have hfloor := Rat.floor_natCast_div_natCast (absDiff (20 * d) (10 * (w * w))) (w * w)
  rw [cast_absDiff] at hfloor
  push_cast at hfloor
  rw [sq, hfloor, penaltyD]
  push_cast
  rfl

/-- Settles O31: the floor of the rational quotient is the quotient of the naturals; a percentage is a twentieth of T. -/
theorem penaltyBalanceRule : Obligations.PenaltyBalanceRule := by
  refine ⟨fun w p hp => ⟨darkCount_eq hp, rfl⟩, fun w d hw => ⟨penaltyD_eq_floor w d, ?_⟩, fun d h h' => ?_, fun d h h' => ?_,
    by decide, by decide⟩
  · have hT : (0 : Rat) < (w : Rat) ^ 2 := by positivity
    have hpercent : 100 * (d : Rat) / (w : Rat) ^ 2 - 50 = 5 * ((20 * d - 10 * (w : Rat) ^ 2) / (w : Rat) ^ 2) := by
      field_simp
      ring
    rw [penaltyD_eq_floor, hpercent, abs_mul, abs_div, abs_of_pos hT, abs_of_pos (by norm_num : (0 : Rat) < 5),
      mul_div_cancel_left₀ _ (by norm_num)]
  all_goals
    unfold penaltyD absDiff
    omega

/-! ### Bounds (R228) -/

theorem sum_map_le {l : List Nat} {f : Nat → Nat} {k : Nat} (h : ∀ x ∈ l, f x ≤ k) : (l.map f).sum ≤ l.length * k := by
  have := List.sum_le_card_nsmul (l.map f) k (List.forall_mem_map.2 h)
  simpa using this

theorem overLines_le {w k : Nat} (p : Plane) {f : List Bool → Nat} (h : ∀ l : List Bool, l.length = w → f l ≤ k) :
    overLines w p f ≤ 2 * (w * k) := by
  have hrows := sum_map_le (l := List.range w) (f := fun r => f (planeRow w p r)) fun r _ => h _ (length_planeRow w p r)
  have hcols := sum_map_le (l := List.range w) (f := fun c => f (planeColumn w p c)) fun c _ => h _ (length_planeColumn w p c)
  rw [List.length_range] at hrows hcols
  unfold overLines
  omega

/-- No run scores more than its length, and the runs of a line make up the line. -/
theorem sum_runScore_runsFrom_le (a : Bool) (n : Nat) (l : List Bool) : ((runsFrom a n l).map runScore).sum ≤ n + l.length := by
  have hscore : ∀ n, runScore n ≤ n := fun n => by unfold runScore; split <;> omega
  induction l generalizing a n with
  | nil => simpa [runsFrom] using hscore n
  | cons x xs ih =>
    unfold runsFrom
    split
    · have := ih a (n + 1)
      simp only [List.length_cons]
      omega
    · have := ih x 1
      have := hscore n
      simp only [List.map_cons, List.sum_cons, List.length_cons]
      omega

theorem lineRuns_le (l : List Bool) : lineRuns l ≤ l.length := by
  cases l with
  | nil => exact Nat.le_refl 0
  | cons x xs => exact (sum_runScore_runsFrom_le x 1 xs).trans_eq (Nat.add_comm 1 _)

theorem lineFinders_le (w : Nat) (l : List Bool) : lineFinders w l ≤ 40 * (w - 6) :=
  Nat.mul_le_mul_left _ (List.countP_le_length.trans_eq List.length_range)

theorem penaltyB_le {w : Nat} {p : Plane} (hp : squarePlane w p) : penaltyB p ≤ (w - 1) * ((w - 1) * 3) := by
  have hwindow : ∀ r₁ r₂ c, windowScore r₁ r₂ c ≤ 3 := fun r₁ r₂ c => by unfold windowScore; split <;> omega
  have hrow : ∀ r₁ r₂, ((List.range (w - 1)).map (windowScore r₁ r₂)).sum ≤ (w - 1) * 3 := fun r₁ r₂ => by
    simpa using sum_map_le (l := List.range (w - 1)) (f := windowScore r₁ r₂) fun c _ => hwindow r₁ r₂ c
  rw [penaltyB_eq_windows hp]
  simpa using sum_map_le (l := List.range (w - 1))
    (f := fun r => ((List.range (w - 1)).map (windowScore (p.getD r []) (p.getD (r + 1) []))).sum) fun r _ => hrow _ _

theorem darkCount_le {w : Nat} {p : Plane} (hp : squarePlane w p) : darkCount p ≤ w * w := by
  rw [darkCount_eq hp]
  simpa using sum_map_le (l := List.range w) (f := fun r => (List.range w).countP fun c => planeAt p r c)
    fun r _ => List.countP_le_length.trans_eq List.length_range

theorem penaltyD_le {w d : Nat} (hd : d ≤ w * w) : penaltyD w d ≤ 100 := by
  have hquot : absDiff (20 * d) (10 * (w * w)) / (w * w) ≤ 10 :=
    Nat.div_le_of_le_mul (by unfold absDiff; rw [Nat.mul_comm (w * w) 10]; omega)
  unfold penaltyD
  omega

/-- Settles O32: a line of W modules scores at most W for its runs and 40 for each start, a window 3, and the balance 100. -/
theorem penaltyFits : Obligations.PenaltyFits := by
  intro w p hw hw' hp
  have ha : (scorePlane w p).a ≤ 2 * (177 * 177) :=
    calc (scorePlane w p).a = overLines w p lineRuns := sum_lines hp lineRuns
      _ ≤ 2 * (w * w) := overLines_le p fun l hl => (lineRuns_le l).trans_eq hl
      _ ≤ 2 * (177 * 177) := by gcongr
  have hb : (scorePlane w p).b ≤ 176 * (176 * 3) :=
    calc penaltyB p ≤ (w - 1) * ((w - 1) * 3) := penaltyB_le hp
      _ ≤ 176 * (176 * 3) := by gcongr <;> omega
  have hc : (scorePlane w p).c ≤ 2421360 :=
    calc (scorePlane w p).c = overLines w p (lineFinders w) := sum_lines hp (lineFinders w)
      _ ≤ 2 * (w * (40 * (w - 6))) := overLines_le p fun l _ => lineFinders_le w l
      _ ≤ 2 * (177 * (40 * 171)) := by gcongr; omega
  have hd : (scorePlane w p).d ≤ 100 := penaltyD_le (darkCount_le hp)
  have htotal : (scorePlane w p).total = (scorePlane w p).a + (scorePlane w p).b + (scorePlane w p).c + (scorePlane w p).d := rfl
  refine ⟨htotal, hc, ?_⟩
  rw [htotal]
  omega

end Sys2Proof.Machine
end

section

/-! The mask conditions, the candidate colour plane and its score (spec/44_mask.md R221 to R223, R229). -/

namespace Sys2Proof.Machine

open Sys2Proof.Terms

/-! ### Mask conditions (R221, R222) -/

theorem maskBit_iff {m : Nat} (hm : m < 8) (r c : Nat) : maskBit (BitVec.ofNat 3 m) r c = true ↔ maskCondition m r c := by
  interval_cases m <;> exact decide_eq_true_iff

/-- Settles O26: each mask id, against its row of the table. -/
theorem maskConditions : Obligations.MaskConditions := fun _ hm r c => maskBit_iff hm r c

/-! ### The candidate (R223) -/

/-- The width of the matrix is at least that of version 0. -/
theorem mxWidth_ge (s : State) : s.mxWidth = 17 ∨ 21 ≤ s.mxWidth := by
  unfold State.mxWidth width
  omega

/-- The bit index of a format position, for the width 17 of version 0 too, which is no legal version. -/
theorem formatIndex_of_formatPosition {s : State} {r c k : Nat} (h : formatPosition s.mxWidth k r c) :
    formatIndex s.mxWidth r c = some k := by
  rcases mxWidth_ge s with hw | hw
  · rw [hw] at h ⊢
    rcases h with ⟨hk, hr, hc⟩ | ⟨rfl, rfl, rfl⟩ | ⟨rfl, rfl, rfl⟩ | ⟨rfl, rfl, rfl⟩ | ⟨hk, hk', hr, hc⟩ | ⟨hk, hr, hc⟩ |
      ⟨hk, hk', hr, hc⟩
    · interval_cases k <;> subst hr hc <;> rfl
    · rfl
    · rfl
    · rfl
    all_goals interval_cases k <;> subst hr hc <;> rfl
  · exact (formatIndex_eq_some hw).2 h

/-- The colour of the module at (r, c) of MX under mask `m`. -/
def State.maskedColour (s : State) (m : BitVec 3) (r c : Nat) : Bool :=
  moduleColour (fmtWord s.params.level m) m s.mxWidth r c (s.mxCell r c)

/-- The mask inverts the RAW bit where its condition holds. -/
theorem raw_xor_maskBit {m : Nat} (hm : m < 8) (raw : Bool) (r c : Nat) :
    ((raw ^^ maskBit (BitVec.ofNat 3 m) r c) = true ↔
      (raw = true ∧ ¬ maskCondition m r c) ∨ (raw = false ∧ maskCondition m r c)) ∧
    ((raw ^^ maskBit (BitVec.ofNat 3 m) r c) = false ↔
      (raw = true ∧ maskCondition m r c) ∨ (raw = false ∧ ¬ maskCondition m r c)) := by
  rw [← maskBit_iff hm]
  cases raw <;> simp

section

variable {s : State} {m : BitVec 3} {r c k : Nat}

theorem State.maskedColour_data (h : s.moduleKind r c = .data) :
    s.maskedColour m r c = (cellRaw (s.mxCell r c) ^^ maskBit m r c) := by
  unfold State.maskedColour moduleColour
  rw [show cellKind (s.mxCell r c) = .data from h]

theorem State.maskedColour_func (h : s.moduleKind r c = .func) : s.maskedColour m r c = s.isDark r c := by
  unfold State.maskedColour moduleColour
  rw [show cellKind (s.mxCell r c) = .func from h]
  rfl

theorem State.maskedColour_fmt (h : s.moduleKind r c = .fmt) (hk : formatPosition s.mxWidth k r c) :
    s.maskedColour m r c = (fmtWord s.params.level m).getLsbD k := by
  unfold State.maskedColour moduleColour
  rw [show cellKind (s.mxCell r c) = .fmt from h, formatIndex_of_formatPosition hk]

end

/-- A plane that shows every module's colour is the candidate. -/
theorem isCandidate_of_maskedColour {s : State} {m : Nat} (hm : m < 8) {plane : Nat → Nat → Bool}
    (h : ∀ r < s.mxWidth, ∀ c < s.mxWidth, plane r c = s.maskedColour (BitVec.ofNat 3 m) r c) : isCandidate s m plane := by
  intro r hr c hc
  rw [h r hr c hc]
  exact ⟨fun hkind => State.maskedColour_data hkind ▸ (raw_xor_maskBit hm _ r c).1, State.maskedColour_func,
    fun hkind _ hk => State.maskedColour_fmt hkind hk⟩

theorem getD_map_range {α : Type} {n i : Nat} (f : Nat → α) (h : i < n) (x : α) : ((List.range n).map f).getD i x = f i := by
  simp [List.getD_eq_getElem?_getD, h]

/-- The candidate plane of MX, module by module. -/
theorem candidate_toGrid (s : State) (m : BitVec 3) :
    candidate (fmtWord s.params.level m) m s.mxWidth (s.mx.toGrid s.mxWidth) =
      (List.range s.mxWidth).map fun r => (List.range s.mxWidth).map fun c => s.maskedColour m r c := by
  refine List.map_congr_left fun r hr => List.map_congr_left fun c hc => ?_
  rw [Memory.toGrid, getD_map_range _ (List.mem_range.1 hr), getD_map_range _ (List.mem_range.1 hc)]
  rfl

theorem State.score_eq (s : State) (m : BitVec 3) :
    s.score m =
      scorePlane s.mxWidth ((List.range s.mxWidth).map fun r => (List.range s.mxWidth).map fun c => s.maskedColour m r c) := by
  rw [State.score, State.scoreOn, candidate_toGrid]

theorem squarePlane_map_range (w : Nat) (f : Nat → Nat → Bool) :
    squarePlane w ((List.range w).map fun r => (List.range w).map fun c => f r c) := by
  simp [squarePlane]

theorem planeAt_map_range {w r c : Nat} (f : Nat → Nat → Bool) (hr : r < w) (hc : c < w) :
    planeAt ((List.range w).map fun r => (List.range w).map fun c => f r c) r c = f r c := by
  rw [planeAt, getD_map_range _ hr, getD_map_range _ hc]

/-- Settles O27: the plane of the masked colours. -/
theorem candidateScore : Obligations.CandidateScore := fun s m hm =>
  ⟨_, squarePlane_map_range s.mxWidth _, isCandidate_of_maskedColour hm fun _ hr _ hc => planeAt_map_range _ hr hc,
    s.score_eq (BitVec.ofNat 3 m)⟩

/-! ### What a score depends on (R229) -/

/-- Matrices of one width that show the same colours under a mask have the same score. -/
theorem State.score_congr {s t : State} {m : BitVec 3} (hw : t.mxWidth = s.mxWidth)
    (h : ∀ r < s.mxWidth, ∀ c < s.mxWidth, t.maskedColour m r c = s.maskedColour m r c) : t.score m = s.score m := by
  rw [State.score_eq, State.score_eq, hw]
  exact congrArg _ (List.map_congr_left fun r hr => List.map_congr_left fun c hc =>
    h r (List.mem_range.1 hr) c (List.mem_range.1 hc))

/-- A colour is a function of the KIND, DARK and RAW bits. -/
theorem moduleColour_low (fw : BitVec 15) (m : BitVec 3) (w r c : Nat) (b : Byte) :
    moduleColour fw m w r c (b &&& 0x0F#8) = moduleColour fw m w r c b := by
  have hkind : cellKind (b &&& 0x0F#8) = cellKind b := by decide +revert
  have hdark : cellDark (b &&& 0x0F#8) = cellDark b := by simp [cellDark]
  have hraw : cellRaw (b &&& 0x0F#8) = cellRaw b := by simp [cellRaw]
  unfold moduleColour
  rw [hkind, hdark, hraw]

/-- Settles O33: equal low bits give equal colours. -/
theorem scoreDependsOnlyOn : Obligations.ScoreDependsOnlyOn := by
  intro s t hver hlevel hcells m _
  have hw : t.mxWidth = s.mxWidth := by rw [State.mxWidth, State.mxWidth, hver]
  refine (State.score_congr hw fun r hr c hc => ?_).symm
  rw [State.maskedColour, State.maskedColour, hw, hlevel, ← moduleColour_low, ← hcells r hr c hc, moduleColour_low]

end Sys2Proof.Machine
end

section

/-! MX after a commit: every cell shows the candidate, whatever mask was committed before (spec/44_mask.md R233 to R236). -/

namespace Sys2Proof.Machine

open Sys2Proof.Terms

/-! ### The committed cell -/

@[simp] theorem setDark_setDark (b : Byte) (d e : Bool) : setDark (setDark b d) e = setDark b e := by
  decide +revert

theorem setDark_true (b : Byte) : setDark b true = b ||| 0x04#8 := by
  decide +revert

theorem setDark_false (b : Byte) : setDark b false = b &&& 0xFB#8 := by
  decide +revert

theorem setDark_of_fmt {b : Byte} (hlt : b.toNat < 16) (hkind : cellKind b = .fmt) (hraw : cellRaw b = false) (d : Bool) :
    setDark b d = if d then 0x07#8 else 0x03#8 := by
  decide +revert

theorem setDark_commitCell (m : BitVec 3) (j : Nat) (b : Byte) (d : Bool) : setDark (commitCell m j b) d = setDark b d := by
  unfold commitCell
  split <;> simp

@[simp] theorem cellKind_commitCell (m : BitVec 3) (j : Nat) (b : Byte) : cellKind (commitCell m j b) = cellKind b := by
  unfold commitCell
  split <;> simp

@[simp] theorem cellRaw_commitCell (m : BitVec 3) (j : Nat) (b : Byte) : cellRaw (commitCell m j b) = cellRaw b := by
  unfold commitCell
  split <;> simp

theorem commitCell_commitCell (m n : BitVec 3) (j : Nat) (b : Byte) : commitCell n j (commitCell m j b) = commitCell n j b := by
  by_cases h : cellKind b = .data
  · simp [commitCell, h]
  · rw [show commitCell m j b = b from if_neg h]

section

variable (fw : BitVec 15) (m : BitVec 3) {w r c k : Nat} (b : Byte)

theorem committedCell_format (h : formatIndex w r c = some k) : committedCell fw m w r c b = setDark b (fw.getLsbD k) := by
  simp only [committedCell, h, setDark_commitCell]

theorem committedCell_other (h : formatIndex w r c = none) : committedCell fw m w r c b = commitCell m (mxIndex r c) b := by
  simp only [committedCell, h]

@[simp] theorem cellKind_committedCell : cellKind (committedCell fw m w r c b) = cellKind b := by
  unfold committedCell
  split <;> simp

@[simp] theorem cellRaw_committedCell : cellRaw (committedCell fw m w r c b) = cellRaw b := by
  unfold committedCell
  split <;> simp

/-- The earlier commit leaves no trace (R236). -/
theorem committedCell_committedCell (fw' : BitVec 15) (m' : BitVec 3) :
    committedCell fw' m' w r c (committedCell fw m w r c b) = committedCell fw' m' w r c b := by
  cases hk : formatIndex w r c with
  | some k => simp only [committedCell_format _ _ _ hk, setDark_setDark]
  | none => simp only [committedCell_other _ _ _ hk, commitCell_commitCell]

end

/-- A commit writes MX and the registers that describe it only. -/
theorem State.commitWrites_frame (s : State) (m : BitVec 3) :
    s.commitWrites m = { s with mx := (s.commitWrites m).mx, symbol := (s.commitWrites m).symbol } := by
  simp only [State.commitWrites]

theorem State.wf_commitWrites_mx {s : State} (hm : s.mx.wf) (m : BitVec 3) : (s.commitWrites m).mx.wf := by
  rw [State.commitWrites_mx]
  exact Memory.wf_commitMatrix hm _ m _

@[simp] theorem State.commitWrites_mxWidth (s : State) (m : BitVec 3) : (s.commitWrites m).mxWidth = s.mxWidth := by
  simp only [State.mxWidth, State.commitWrites_symbol]

end Sys2Proof.Machine

namespace Sys2Proof.Safety

open Sys2Proof.Machine Sys2Proof.Terms

/-! ### The committed cell of a consistent matrix -/

section

variable {w r c : Nat} {sel : MaskField} {fmt : BitVec 15} {b : Byte} (h : CellConsistent w sel fmt r c b)

include h

theorem CellConsistent.fmt_iff : cellKind b = .fmt ↔ formatIndex w r c ≠ none := by
  obtain ⟨-, hfmt, -⟩ := h
  exact hfmt

theorem CellConsistent.kind_ne_empty : cellKind b ≠ .empty := by
  obtain ⟨-, -, hne, -⟩ := h
  exact hne

/-- The format positions are the FMT cells (R51). -/
theorem CellConsistent.formatIndex_eq_none (hkind : cellKind b ≠ .fmt) : formatIndex w r c = none :=
  not_not.1 fun hk => hkind (h.fmt_iff.2 hk)

theorem CellConsistent.exists_formatIndex (hkind : cellKind b = .fmt) : ∃ k, formatIndex w r c = some k :=
  Option.ne_none_iff_exists'.1 (h.fmt_iff.1 hkind)

/-- A committed format cell holds its bit and nothing else. -/
theorem CellConsistent.setDark_format {k : Nat} (hk : formatIndex w r c = some k) (d : Bool) :
    setDark b d = if d then 0x07#8 else 0x03#8 := by
  obtain ⟨hlt, hfmt, -, -, -, hraw⟩ := h
  have hkind := hfmt.2 (by simp [hk])
  exact setDark_of_fmt hlt hkind (hraw hkind).1 d

theorem committedCell_data (hkind : cellKind b = .data) (hc : c < Config.mxDim) (fw : BitVec 15) (m : BitVec 3) :
    committedCell fw m w r c b = setDark b (cellRaw b ^^ maskBit m r c) := by
  rw [committedCell_other _ _ _ (h.formatIndex_eq_none (by simp [hkind])), commitCell_mxIndex m r hc, if_pos hkind]

theorem committedCell_func (hkind : cellKind b = .func) (fw : BitVec 15) (m : BitVec 3) : committedCell fw m w r c b = b := by
  rw [committedCell_other _ _ _ (h.formatIndex_eq_none (by simp [hkind]))]
  exact if_neg (by simp [hkind])

/-- The committed cell shows the candidate's colour (R235). -/
theorem cellDark_committedCell (hc : c < Config.mxDim) (fw : BitVec 15) (m : BitVec 3) :
    cellDark (committedCell fw m w r c b) = moduleColour fw m w r c b := by
  unfold moduleColour
  cases hkind : cellKind b with
  | empty => exact absurd hkind h.kind_ne_empty
  | func => rw [committedCell_func h hkind]
  | data => rw [committedCell_data h hkind hc, cellDark_setDark]
  | fmt =>
    obtain ⟨k, hk⟩ := h.exists_formatIndex hkind
    rw [committedCell_format _ _ _ hk, cellDark_setDark, hk]

/-- A commit does not change what any mask's candidate shows (R229). -/
theorem moduleColour_committedCell (fw fw' : BitVec 15) (m n : BitVec 3) :
    moduleColour fw m w r c (committedCell fw' n w r c b) = moduleColour fw m w r c b := by
  unfold moduleColour
  rw [cellKind_committedCell, cellRaw_committedCell]
  cases hkind : cellKind b with
  | empty => exact absurd hkind h.kind_ne_empty
  | func => rw [committedCell_func h hkind]
  | data => rfl
  | fmt =>
    obtain ⟨k, hk⟩ := h.exists_formatIndex hkind
    simp only [hk]

end

/-! ### The committed matrix -/

section

variable {s : State} (hm : s.mx.wf) (h : MatrixBuilt s)

include h

theorem MatrixBuilt.mxWidth_bounds : 21 ≤ s.mxWidth ∧ s.mxWidth ≤ Config.mxDim := by
  obtain ⟨⟨hmin, hmax⟩, -⟩ := h
  exact ⟨width_ge hmin, width_le_mxDim hmax⟩

theorem MatrixBuilt.cellConsistent {r c : Nat} (hr : r < s.mxWidth) (hc : c < s.mxWidth) :
    CellConsistent s.mxWidth s.symbol.maskSel s.symbol.fmtBits r c (s.mxCell r c) := by
  obtain ⟨-, -, -, -, -, hcells⟩ := h
  exact hcells r hr c hc

theorem MatrixBuilt.readByte_outside {a : Nat} (ha : ¬ (a / Config.mxDim < s.mxWidth ∧ a % Config.mxDim < s.mxWidth)) :
    s.mx.readByte a = Memory.unlisted := by
  obtain ⟨-, -, -, -, hin, -⟩ := h
  exact (Memory.readByte_eq_or_mem s.mx a).resolve_right fun hmem => ha (hin _ hmem)

include hm

/-- Every cell of the symbol after a commit. -/
theorem MatrixBuilt.mxCell_commitWrites (m : BitVec 3) (r : Nat) {c : Nat} (hc : c < s.mxWidth) :
    (s.commitWrites m).mxCell r c = committedCell (fmtWord s.params.level m) m s.mxWidth r c (s.mxCell r c) := by
  obtain ⟨hw, hdim⟩ := h.mxWidth_bounds
  rw [State.mxCell, State.commitWrites_mx, readByte_commitMatrix hm _ _ hw hdim hc]
  rfl

theorem MatrixBuilt.readByte_commitWrites_outside (m : BitVec 3) {a : Nat}
    (ha : ¬ (a / Config.mxDim < s.mxWidth ∧ a % Config.mxDim < s.mxWidth)) : (s.commitWrites m).mx.readByte a = Memory.unlisted :=
  (h.commitWrites hm m).readByte_outside ha

/-- MX after two commits, offset by offset (R236). -/
theorem MatrixBuilt.mx_recommit (m n : BitVec 3) : ((s.commitWrites m).commitWrites n).mx = (s.commitWrites n).mx := by
  have hm' := State.wf_commitWrites_mx hm m
  have h' := h.commitWrites hm m
  refine Memory.eq_of_readByte (State.wf_commitWrites_mx hm' n) (State.wf_commitWrites_mx hm n) fun a => ?_
  by_cases ha : a / Config.mxDim < s.mxWidth ∧ a % Config.mxDim < s.mxWidth
  · have hcell : ((s.commitWrites m).commitWrites n).mxCell (a / Config.mxDim) (a % Config.mxDim) =
        (s.commitWrites n).mxCell (a / Config.mxDim) (a % Config.mxDim) := by
      rw [h'.mxCell_commitWrites hm' n _ ha.2, h.mxCell_commitWrites hm m _ ha.2, h.mxCell_commitWrites hm n _ ha.2]
      exact committedCell_committedCell _ _ _ _ _
    rwa [State.mxCell, State.mxCell, mxIndex, Nat.div_add_mod] at hcell
  · rw [h'.readByte_commitWrites_outside hm' n ha, h.readByte_commitWrites_outside hm n ha]

/-- A commit after a commit is that commit alone. -/
theorem MatrixBuilt.recommit (m n : BitVec 3) : (s.commitWrites m).commitWrites n = s.commitWrites n := by
  have hsymbol : ((s.commitWrites m).commitWrites n).symbol = (s.commitWrites n).symbol := by simp
  rw [State.commitWrites_frame (s.commitWrites m) n, h.mx_recommit hm m n, hsymbol, State.commitWrites_frame s m]
  exact (State.commitWrites_frame s n).symm

/-- Each module shows the candidate after the commit, DATA and FMT modules by their new DARK bit (R235). -/
theorem MatrixBuilt.isDark_commitWrites (m : BitVec 3) {r c : Nat} (hr : r < s.mxWidth) (hc : c < s.mxWidth) :
    (s.commitWrites m).isDark r c = s.maskedColour m r c := by
  obtain ⟨-, hdim⟩ := h.mxWidth_bounds
  rw [State.isDark, h.mxCell_commitWrites hm m r hc]
  exact cellDark_committedCell (h.cellConsistent hr hc) (hc.trans_le hdim) _ m

/-- A commit changes no score (R229). -/
theorem MatrixBuilt.score_commitWrites (m n : BitVec 3) : (s.commitWrites n).score m = s.score m := by
  refine State.score_congr rfl fun r hr c hc => ?_
  rw [State.maskedColour, h.mxCell_commitWrites hm n r hc]
  exact moduleColour_committedCell (h.cellConsistent hr hc) _ _ m n

end

end Sys2Proof.Safety
end

section

/-! The mask commands (spec/44_mask.md R230, R233 to R236, R240 to R242). -/

namespace Sys2Proof

open Sys2Proof.Machine Sys2Proof.Safety Sys2Proof.Terms

/-! ### The words and the ends of the mask commands -/

/-- The word of a mask command holds its OP, its mask id, and 0 above. -/
theorem encode_mask_eq_iff {f : Nat → Instr} (hf : f = .maskScore ∨ f = .maskCommit) {w : Word}
    (hw : w.toNat % 256 = (f 0).op.toNat) (hlt : w.toNat / 2048 = 0) : encode (f (w.toNat / 256)) = w := by
  have hop : (f (w.toNat / 256)).op = (f 0).op := by rcases hf with rfl | rfl <;> rfl
  have harg : (f (w.toNat / 256)).arg = BitVec.ofNat 8 (w.toNat / 256) := by rcases hf with rfl | rfl <;> rfl
  refine encode_eq_iff.2 ⟨rsvField_eq_zero.2 (by omega), ?_, ?_⟩
  · rw [hop]
    exact BitVec.eq_of_toNat_eq (hw.symm.trans (opField_toNat w).symm)
  · rw [harg]
    exact BitVec.eq_of_toNat_eq ((BitVec.toNat_ofNat _ _).trans (argField_toNat w).symm)

/-- The word check of the two commands with a mask id. -/
theorem maskWord {f : Nat → Instr} (hf : f = .maskScore ∨ f = .maskCommit) : MaskWord (f 0).op.toNat f := by
  intro s w hs hw
  split
  · next hlt =>
    have hwf : (f (w.toNat / 256)).wellFormed = true := by
      rcases hf with rfl | rfl <;> exact decide_eq_true (show w.toNat / 256 < 8 by omega)
    exact State.sequencerTurn_decoded hs (decode_eq_ok_iff.2 ⟨hwf, encode_mask_eq_iff hf hw hlt⟩)
  · next hge =>
    refine sequencerTurn_illegal hs fun i hi => hge ?_
    have hop : (f 0).op.toNat = 0x50 ∨ (f 0).op.toNat = 0x51 := by rcases hf with rfl | rfl <;> decide
    obtain ⟨hrsv, ⟨hmem, -⟩ | ⟨-, harg⟩⟩ := legal_iff.1 ⟨i, hi⟩
    · rw [hw] at hmem
      rcases hop with hop | hop <;> simp [hop] at hmem
    · omega

section

variable {i : Instr} (hi : isMaskCommand i) {s : State}

include hi

theorem checksOf_mask : ¬ builds i ∧ checksOf i s = [(!s.status.built, .notBuilt)] := by
  rcases hi with ⟨m, rfl⟩ | ⟨m, rfl⟩ | rfl <;> simp [builds, checksOf]

theorem exec_mask_notBuilt (h : s.status.built = false) : exec i s = .next (faulted 0x08#8 s) := by
  obtain ⟨hbuilds, hchecks⟩ := checksOf_mask hi (s := s)
  exact exec_eq_faulted (c := .notBuilt) hbuilds (by simp [hchecks, firstFault, h])

theorem exec_mask_built (h : s.status.built = true) : exec i s = .next (finished (s.writes i)) := by
  obtain ⟨hbuilds, hchecks⟩ := checksOf_mask hi (s := s)
  exact exec_eq_finished hbuilds (by simp [ChecksPass, hchecks, h])

end

theorem exec_maskCommit {s : State} (h : s.status.built = true) (m : Nat) :
    exec (.maskCommit m) s = .next (finished (s.commitWrites (BitVec.ofNat 3 m))) :=
  exec_mask_built (.inr (.inl ⟨m, rfl⟩)) h

/-! ### A completion does not touch the matrix -/

section

variable (s : State) (r c : Nat)

@[simp] theorem finished_mxWidth : (finished s).mxWidth = s.mxWidth := rfl

@[simp] theorem finished_mxCell : (finished s).mxCell r c = s.mxCell r c := rfl

@[simp] theorem finished_isDark : (finished s).isDark r c = s.isDark r c := rfl

@[simp] theorem finished_moduleKind : (finished s).moduleKind r c = s.moduleKind r c := rfl

@[simp] theorem finished_score (m : BitVec 3) : (finished s).score m = s.score m :=
  State.score_congr rfl fun _ _ _ _ => rfl

theorem commitWrites_finished (m : BitVec 3) : finished ((finished s).commitWrites m) = finished (s.commitWrites m) := by
  simp only [State.commitWrites, finished, State.mxWidth]

end

theorem readByte_eq_mxCell (s : State) (r c : Nat) : s.mx.readByte (177 * r + c) = s.mxCell r c := rfl

/-! ### MASK_SCORE (R240) -/

theorem scoreWrites_ofNat (s : State) {m : Nat} (hm : m < 8) :
    s.scoreWrites (BitVec.ofNat 3 m) =
      { s with
        pen :=
          { breakdown s.pen s m with
            penalty := s.pen.penalty.set m (BitVec.ofNat 32 (s.score (BitVec.ofNat 3 m)).total) hm } } := by
  have htoNat : (BitVec.ofNat 3 m).toNat = m := Nat.mod_eq_of_lt hm
  simp only [State.scoreWrites, htoNat, PenaltyRegs.setBreakdown, breakdown]

/-- Settles O34: the writes of R240, and the colours that a commit keeps. -/
theorem maskScoreCommand : Obligations.MaskScoreCommand := by
  refine ⟨maskWord (.inl rfl), fun s m h => exec_mask_notBuilt (.inl ⟨m, rfl⟩) h, fun s m hm h => ?_,
    fun s t m n _ _ hcan hcons hb ht => ?_⟩
  · rw [exec_mask_built (.inl ⟨m, rfl⟩) h, State.writes, scoreWrites_ofNat s hm]
    rfl
  · rw [exec_maskCommit hb] at ht
    obtain rfl := Host.Outcome.next.inj ht
    obtain ⟨-, -, hwf⟩ := hcan
    rw [finished_score]
    exact ((matrixConsistent_of_built hb).1 hcons).score_commitWrites hwf _ _

/-! ### MASK_COMMIT (R241) -/

/-- Settles O35: MX after the commit, read cell by cell. -/
theorem maskCommitCommand : Obligations.MaskCommitCommand := by
  refine ⟨maskWord (.inr rfl), fun s m h => exec_mask_notBuilt (.inr (.inl ⟨m, rfl⟩)) h, fun s m hm hb => ?_⟩
  refine ⟨(s.commitWrites (BitVec.ofNat 3 m)).mx, ?_, fun ⟨_, _, hwf⟩ hcons => ?_⟩
  · rw [exec_maskCommit hb, State.commitWrites_frame, State.commitWrites_symbol]
  have h := (matrixConsistent_of_built hb).1 hcons
  obtain ⟨hw, hdim⟩ := h.mxWidth_bounds
  refine ⟨fun r hr c hc => ?_, fun a ha => ?_⟩
  · have hcell := h.cellConsistent hr hc
    have hnew : (s.commitWrites (BitVec.ofNat 3 m)).mx.readByte (177 * r + c) =
        committedCell (fmtWord s.params.level (BitVec.ofNat 3 m)) (BitVec.ofNat 3 m) s.mxWidth r c (s.mxCell r c) :=
      (readByte_eq_mxCell _ r c).trans (h.mxCell_commitWrites hwf _ r hc)
    simp only [hnew]
    refine ⟨fun hkind => ?_, fun k hk => ?_, fun hkind => committedCell_func hcell hkind _ _⟩
    · obtain ⟨htrue, hfalse⟩ := raw_xor_maskBit hm (cellRaw (s.mxCell r c)) r c
      rw [committedCell_data hcell hkind (hc.trans_le hdim)]
      exact ⟨fun hdark => by rw [htrue.2 hdark, setDark_true], fun hlight => by rw [hfalse.2 hlight, setDark_false]⟩
    · rw [committedCell_format _ _ _ (formatIndex_of_formatPosition hk)]
      exact hcell.setDark_format (formatIndex_of_formatPosition hk) _
  · rw [h.readByte_commitWrites_outside hwf _ ha, h.readByte_outside ha]

/-- Settles O36: the DARK bit of each committed cell is the candidate's colour. -/
theorem committedMatrixShowsCandidate : Obligations.CommittedMatrixShowsCandidate := by
  intro s m hm ⟨_, _, hwf⟩ hcons hb
  have h := (matrixConsistent_of_built hb).1 hcons
  refine ⟨_, exec_maskCommit hb m, ?_⟩
  simp only [finished_mxWidth, finished_mxCell, finished_moduleKind, State.commitWrites_mxWidth]
  refine ⟨fun r hr c hc hkind => ?_, isCandidate_of_maskedColour hm fun r hr c hc =>
    (finished_isDark _ r c).trans (h.isDark_commitWrites hwf _ hr hc)⟩
  rw [State.moduleKind, h.mxCell_commitWrites hwf _ r hc, cellKind_committedCell] at hkind
  rw [finished_isDark, h.isDark_commitWrites hwf _ hr hc, State.maskedColour_data hkind, h.mxCell_commitWrites hwf _ r hc,
    cellRaw_committedCell]

/-- Settles O37: the second commit overwrites every DARK bit the first one wrote. -/
theorem recommitIndependent : Obligations.RecommitIndependent := by
  intro s m n _ _ ⟨_, _, hwf⟩ hcons hb
  have hrecommit := ((matrixConsistent_of_built hb).1 hcons).recommit hwf (BitVec.ofNat 3 m) (BitVec.ofNat 3 n)
  have hbuilt : (finished (s.commitWrites (BitVec.ofNat 3 m))).status.built = true := by simpa [finished] using hb
  refine ⟨_, _, exec_maskCommit hb m, ?_, exec_maskCommit hb n, ?_⟩
  · rw [exec_maskCommit hbuilt, commitWrites_finished, hrecommit]
  · rintro rfl
    rfl

/-! ### MASK_AUTO (R242) -/

/-- `b` is the first least number of the list, with its place (R230). -/
def IsFirstLeast (l : List Nat) (b : Nat × Nat) : Prop :=
  l[b.2]? = some b.1 ∧ ∀ i x, l[i]? = some x → b.1 ≤ x ∧ (i < b.2 → b.1 < x)

/-- One more number is the first least one exactly if it is below all before it. -/
theorem IsFirstLeast.append {l : List Nat} {b : Nat × Nat} (h : IsFirstLeast l b) (y : Nat) :
    IsFirstLeast (l ++ [y]) (if y < b.1 then (y, l.length) else b) := by
  obtain ⟨hb, hleast⟩ := h
  have hlt : b.2 < l.length := (List.getElem?_eq_some_iff.1 hb).1
  have hcases : ∀ i x, (l ++ [y])[i]? = some x → l[i]? = some x ∨ i = l.length ∧ x = y := by
    intro i x hx
    rcases Nat.lt_trichotomy i l.length with hi | hi | hi
    · exact .inl (by rwa [List.getElem?_append_left hi] at hx)
    · subst hi
      exact .inr ⟨rfl, by simpa using hx.symm⟩
    · rw [List.getElem?_eq_none (by simp; omega)] at hx
      cases hx
  split
  · next hy =>
    refine ⟨by simp, fun i x hx => ?_⟩
    rcases hcases i x hx with hx | ⟨rfl, rfl⟩
    · have := (hleast i x hx).1
      exact ⟨by omega, fun _ => by omega⟩
    · exact ⟨Nat.le_refl x, fun hi => absurd hi (Nat.lt_irrefl _)⟩
  · next hy =>
    refine ⟨getElem?_append_of_eq_some hb _, fun i x hx => ?_⟩
    rcases hcases i x hx with hx | ⟨rfl, rfl⟩
    · exact hleast i x hx
    · exact ⟨by omega, fun hi => by omega⟩

/-- The loop of R242 keeps the first least total. -/
theorem foldl_keepFirstLeast {l : List Nat} (hl : l ≠ []) :
    ∃ b, l.zipIdx.foldl keepFirstLeast none = some b ∧ IsFirstLeast l b := by
  induction l using List.reverseRecOn with
  | nil => exact absurd rfl hl
  | append_singleton l y ih =>
    rw [List.zipIdx_append, List.foldl_append]
    by_cases hempty : l = []
    · subst hempty
      refine ⟨(y, 0), rfl, rfl, fun i x hx => ?_⟩
      obtain ⟨rfl, rfl⟩ : i = 0 ∧ y = x := by simpa [List.getElem?_singleton] using hx
      exact ⟨Nat.le_refl y, fun hi => absurd hi (Nat.lt_irrefl 0)⟩
    · obtain ⟨b, hfold, hb⟩ := ih hempty
      refine ⟨_, ?_, hb.append y⟩
      rw [hfold]
      simp only [List.zipIdx_singleton, List.foldl_cons, List.foldl_nil, keepFirstLeast, Nat.zero_add]
      split <;> rfl

theorem selectMask_isFirstLeast {l : List Nat} (hl : l ≠ []) : ∃ x, IsFirstLeast l (x, selectMask l) := by
  obtain ⟨b, hfold, hb⟩ := foldl_keepFirstLeast hl
  exact ⟨b.1, by simpa only [selectMask, hfold] using hb⟩

theorem allScores_totals (s : State) : s.allScores.map Score.total = (List.range 8).map (penaltyOf s) :=
  List.map_map

/-- MASK_AUTO records the totals and the winner's breakdown, and commits the winner. -/
theorem autoWrites_eq (s : State) {best : Nat} (hlt : best < 8) (hsel : selectMask (s.allScores.map Score.total) = best) :
    s.autoWrites =
      { s with
        pen :=
          { breakdown s.pen s best with
            penalty := Vector.ofFn fun i : Fin 8 => BitVec.ofNat 32 (penaltyOf s i.val) } }.commitWrites (BitVec.ofNat 3 best) := by
  have hscore : s.allScores.getD best { a := 0, b := 0, c := 0, d := 0, dark := 0 } = s.score (BitVec.ofNat 3 best) :=
    getD_map_range (fun m => s.score (BitVec.ofNat 3 m)) hlt _
  have htotals : ∀ i : Fin 8, (s.allScores.map Score.total).getD i.val 0 = penaltyOf s i.val := fun i => by
    rw [allScores_totals, getD_map_range _ i.isLt]
  simp only [State.autoWrites, hsel, hscore, htotals, PenaltyRegs.setBreakdown, breakdown]

/-- Settles O38: the loop's choice, and the writes of R242 before the commit of the winner. -/
theorem maskAutoCommand : Obligations.MaskAutoCommand := by
  refine ⟨plainWord (i := .maskAuto) (by decide), fun s h => exec_mask_notBuilt (.inr (.inr rfl)) h, fun s h => ?_⟩
  have htotal : ∀ m < 8, (s.allScores.map Score.total)[m]? = some (penaltyOf s m) := fun m hm => by
    simp [allScores_totals, hm]
  obtain ⟨x, hbest, hleast⟩ := selectMask_isFirstLeast (l := s.allScores.map Score.total) (by simp [allScores_totals])
  generalize hsel : selectMask (s.allScores.map Score.total) = best at hbest hleast
  have hlt : best < 8 := by simpa [allScores_totals] using (List.getElem?_eq_some_iff.1 hbest).1
  obtain rfl : x = penaltyOf s best := Option.some.inj (hbest.symm.trans (htotal best hlt))
  refine ⟨best, hlt, fun m hm => (hleast m _ (htotal m hm)).1,
    fun m hm => (hleast m _ (htotal m (hm.trans hlt))).2 hm, _, exec_mask_built (.inr (.inr rfl)) h, rfl, ?_⟩
  rw [exec_maskCommit (by exact h), State.writes, autoWrites_eq s hlt hsel]

end Sys2Proof
end

section

/-! The control commands (spec/45_control.md R260 to R262). -/

namespace Sys2Proof

open Sys2Proof.Machine Sys2Proof.Terms

/-! ### CMD, DONE and SEQ: acceptance and completion set them, and a command's writes neither read nor write them -/

/-- The state with CMD, DONE and SEQ replaced. -/
def withControl (s : State) (w : Word) (done : Bool) (q : Seq) : State :=
  { s with cmd := w, status := { s.status with done := done }, seq := q }

section

variable (s : State) (w : Word) (d : Bool) (q : Seq)

theorem accept_eq_withControl : s.accept w = withControl s w false (.exec w) := rfl

theorem finished_eq_withControl : finished s = withControl s s.cmd true .idle := rfl

theorem withCmd_finished : { finished s with cmd := w } = withControl s w true .idle := rfl

@[simp] theorem withControl_cmd : (withControl s w d q).cmd = w := rfl

@[simp] theorem withControl_withControl (w' : Word) (d' : Bool) (q' : Seq) :
    withControl (withControl s w d q) w' d' q' = withControl s w' d' q' := rfl

@[simp] theorem interleaveWrites_withControl :
    (withControl s w d q).interleaveWrites = withControl s.interleaveWrites w d q := rfl

@[simp] theorem recordFreeCount_withControl :
    (withControl s w d q).recordFreeCount = withControl s.recordFreeCount w d q := rfl

@[simp] theorem buildWrites_withControl : (withControl s w d q).buildWrites = withControl s.buildWrites w d q := rfl

theorem allScores_withControl : (withControl s w d q).allScores = s.allScores := by
  simp only [State.allScores, State.scoreOn]
  rfl

@[simp] theorem autoWrites_withControl : (withControl s w d q).autoWrites = withControl s.autoWrites w d q := by
  rw [State.autoWrites, State.autoWrites, allScores_withControl]
  simp only [State.commitWrites, withControl, State.mxWidth]

end

/-! ### Accepted commands -/

section

variable {i : Instr} {s t : State} {w : Word}

/-- DONE is 0 from acceptance: a command that leaves it 1 has completed. -/
theorem exec_accept_done (h : exec i (s.accept w) = .next t) (hdone : t.status.done = true) :
    ChecksPass i (s.accept w) ∧ (builds i → s.params.mismatch = false) ∧ t = finished ((s.accept w).writes i) := by
  rcases exec_cases h with ⟨c, -, rfl⟩ | ⟨-, -, -, rfl⟩ | hsuccess
  · cases hdone
  · cases hdone
  · exact hsuccess

/-- DONE is 0 from acceptance: a command that leaves it 0 has faulted. -/
theorem exec_accept_not_done (h : exec i (s.accept w) = .next t) (hdone : t.status.done = false) :
    (∃ c, firstFault (checksOf i (s.accept w)) = some c ∧ t = faulted c.code (s.accept w)) ∨
    (builds i ∧ ChecksPass i (s.accept w) ∧ s.params.mismatch = true ∧ t = faulted 0x07#8 (s.accept w).recordFreeCount) := by
  rcases exec_cases h with hfault | hcount | ⟨-, -, rfl⟩
  · exact .inl hfault
  · exact .inr hcount
  · cases hdone

end

theorem faulted_fcode {s : State} (h : s.status.fcode = 0#8) (code : Byte) : (faulted code s).status.fcode = code :=
  if_pos h

theorem exec_maskAuto_done {s t : State} (hb : s.status.built = true) (h : exec .maskAuto s = .next t) : t.status.done = true := by
  rw [exec_mask_built (.inr (.inr rfl)) hb] at h
  cases h
  rfl

/-! ### NOP (R260) -/

/-- Settles O39: NOP has no check and no write. -/
theorem nopCommand : Obligations.NopCommand :=
  ⟨plainWord (i := .nop) (by decide), fun _ => exec_eq_finished (i := .nop) (by simp [builds]) (by simp [ChecksPass, checksOf])⟩

/-! ### ENCODE_ALL (R261, R262) -/

theorem firstFault_append_of_eq_some {l₁ l₂ : List (Bool × FaultCode)} {c : FaultCode} (h : firstFault l₁ = some c) :
    firstFault (l₁ ++ l₂) = some c := by
  induction l₁ with
  | nil => cases h
  | cons x l ih =>
    obtain ⟨b, d⟩ := x
    cases b with
    | true => exact h
    | false => exact ih h

/-- A build has INTERLEAVE's checks first, so it faults as INTERLEAVE does. -/
theorem buildChecks_of_interleaveChecks {s : State} {c : FaultCode} (h : firstFault (checksOf .interleave s) = some c) :
    firstFault s.params.buildChecks = some c :=
  firstFault_append_of_eq_some (l₂ := [(s.params.badVersion, .badVersion), (s.params.badAlign, .badAlign)]) h

theorem writes_encodeAll_status (s : State) :
    (s.writes .encodeAll).status = { s.status with gpv := true, built := true } := by
  simp [State.writes]

/-- Of the three commands only INTERLEAVE writes CBUF. -/
theorem writes_encodeAll_cbuf (s : State) : (s.writes .encodeAll).cbuf = s.interleaveWrites.cbuf := by
  simp [State.writes]

/-- Settles O40: the checks of a build come first, and the completions between the three commands do not change what they write. -/
theorem encodeAllCommand : Obligations.EncodeAllCommand := by
  refine ⟨plainWord (i := .encodeAll) (by decide), buildFaults (.inr rfl), fun s h => ?_⟩
  have ⟨hk, hl, _, _⟩ := h
  have hstatus := writes_encodeAll_status s
  refine ⟨_, _, finished (s.writes .encodeAll), exec_interleave_of_legal hk hl, exec_of_buildLegal (.inl rfl) h, ?_,
    exec_of_buildLegal (.inr rfl) h, rfl, congrArg Status.gpv hstatus, congrArg Status.built hstatus,
    (congrArg Status.fault hstatus :), fun a ha => ?_⟩
  · rw [exec_mask_built (.inr (.inr rfl)) (by simp [State.writes, finished])]
    simp [State.writes, finished_eq_withControl]
  · exact (congrArg (Memory.readByte · a) (writes_encodeAll_cbuf s)).trans (readByte_interleaveWrites_of_ge ha)

/-- Settles O41: acceptance and completion change CMD, DONE and SEQ only, so the second and third command meet the checks and the
writes that ENCODE_ALL has. -/
theorem encodeAllEqualsSequence : Obligations.EncodeAllEqualsSequence := by
  refine fun s => ⟨fun s₁ s₂ s₃ h₁ hd₁ h₂ hd₂ h₃ hd₃ => ?_, fun s₁ _ hfc h₁ hd₁ => ?_, fun s₁ s₂ _ hfc h₁ hd₁ h₂ hd₂ => ?_,
    fun s₁ s₂ s₃ _ _ h₂ hd₂ h₃ => ?_⟩
  · obtain ⟨-, -, rfl⟩ := exec_accept_done h₁ hd₁
    obtain ⟨hc, hm, rfl⟩ := exec_accept_done h₂ hd₂
    obtain ⟨-, -, rfl⟩ := exec_accept_done h₃ hd₃
    have hm : s.params.mismatch = false := hm (.inl rfl)
    rw [exec_of_buildChecks_none (.inr rfl) (s := s.accept 0x60#32) (firstFault_eq_none.2 hc), State.accept_params, hm]
    refine congrArg Host.Outcome.next (Eq.trans ?_ (withCmd_finished _ _).symm)
    simp [State.writes, finished_eq_withControl, accept_eq_withControl]
  · obtain ⟨c, hc, rfl⟩ | ⟨hb, -⟩ := exec_accept_not_done h₁ hd₁
    · rw [faulted_fcode (by exact hfc)]
      exact exec_of_buildCheck (.inr rfl) (buildChecks_of_interleaveChecks hc)
    · simp [builds] at hb
  · obtain ⟨-, -, rfl⟩ := exec_accept_done h₁ hd₁
    obtain ⟨c, hc, rfl⟩ | ⟨-, hc, hm, rfl⟩ := exec_accept_not_done h₂ hd₂ <;> rw [faulted_fcode (by exact hfc)]
    · exact exec_of_buildCheck (.inr rfl) hc
    · rw [exec_of_buildChecks_none (.inr rfl) (s := s.accept 0x60#32) (firstFault_eq_none.2 hc)]
      exact congrArg Host.Outcome.next (if_pos hm)
  · obtain ⟨-, -, rfl⟩ := exec_accept_done h₂ hd₂
    exact exec_maskAuto_done (by simp [State.writes, finished]) h₃

end Sys2Proof
end

section

/-! The reported fault code and what a faulting command writes (spec/60_exceptions.md R271, R274, R281, R283). -/

namespace Sys2Proof

open Sys2Proof.Machine Sys2Proof.Terms

/-! ### The checks that fail, by their codes -/

section

variable {i : Instr} {s : State}

theorem badK_mem_checksOf : (true, .badK) ∈ checksOf i s ↔
    (i = .genPoly ∨ singleBlock i ∨ usesLayout i) ∧ kIllegal s.params := by
  rw [kIllegal_iff_badK]
  cases i <;> simp [checksOf, Params.buildChecks, singleBlock, usesLayout, builds]

theorem badLayout_mem_checksOf : (true, .badLayout) ∈ checksOf i s ↔ usesLayout i ∧ ¬ layoutLegal s.params := by
  rw [layoutLegal_iff_layoutOk]
  cases i <;> simp [checksOf, Params.buildChecks, usesLayout, builds]

theorem rangeIllegal_iff {p : Params} :
    rangeIllegal i p ↔ p.badRange (if i = .rsSynd then p.n + p.k else p.n) = true := by
  rw [Params.badRange, Bool.or_eq_true, decide_eq_true_eq, decide_eq_true_eq]
  rfl

theorem badRange_mem_checksOf : (true, .badRange) ∈ checksOf i s ↔ singleBlock i ∧ rangeIllegal i s.params := by
  rw [rangeIllegal_iff]
  cases i <;> simp [checksOf, Params.buildChecks, singleBlock]

theorem badVersion_mem_checksOf : (true, .badVersion) ∈ checksOf i s ↔
    builds i ∧ (s.params.version.toNat < 1 ∨ 40 < s.params.version.toNat) := by
  rw [versionIllegal_iff]
  cases i <;> simp [checksOf, Params.buildChecks, builds]

theorem badAlign_mem_checksOf : (true, .badAlign) ∈ checksOf i s ↔ builds i ∧ s.params.badAlign = true := by
  cases i <;> simp [checksOf, Params.buildChecks, builds]

theorem notBuilt_mem_checksOf : (true, .notBuilt) ∈ checksOf i s ↔ isMaskCommand i ∧ s.status.built = false := by
  cases i <;> simp [checksOf, Params.buildChecks, isMaskCommand]

theorem gfLogZero_mem_checksOf : (true, .gfLogZero) ∈ checksOf i s ↔ i = .gfLog ∧ s.params.gfA = 0#8 := by
  cases i <;> simp [checksOf, Params.buildChecks]

/-- The word check comes before every check of a command, and the count check after them (R281). -/
theorem code_of_mem_checksOf {c : FaultCode} (h : (true, c) ∈ checksOf i s) : c ≠ .illegalCmd ∧ c ≠ .layoutMismatch := by
  constructor <;> rintro rfl <;> cases i <;> simp [checksOf, Params.buildChecks] at h

/-- Every command checks in the order of the codes. -/
theorem checksOf_pairwise (i : Instr) (s : State) : (checksOf i s).Pairwise fun x y => x.2.code.toNat < y.2.code.toNat := by
  cases i <;> simp [checksOf, Params.buildChecks, FaultCode.code]

end

/-- Of checks in the order of their codes, the first that fails has the least code of those that fail. -/
theorem firstFault_least {l : List (Bool × FaultCode)} {c : FaultCode} (hl : l.Pairwise fun x y => x.2.code.toNat < y.2.code.toNat)
    (h : firstFault l = some c) : (true, c) ∈ l ∧ ∀ d, (true, d) ∈ l → c.code.toNat ≤ d.code.toNat := by
  obtain ⟨l₁, l₂, rfl, hpass⟩ := firstFault_eq_some h
  refine ⟨by simp, fun d hd => ?_⟩
  obtain hd | hd := List.mem_append.1 hd
  · cases hpass _ hd
  obtain hd | hd := List.mem_cons.1 hd
  · cases hd
    exact Nat.le_refl _
  · exact (List.rel_of_pairwise_cons (List.pairwise_append.1 hl).2.1 hd).le

/-! ### The table of R271 and the checks of the block -/

section

variable {i : Instr} {s : State} {c : FaultCode}

/-- A build passes its checks, the count check apart. -/
theorem checksPass_build_iff (hi : builds i) : ChecksPass i s ↔
    ¬ kIllegal s.params ∧ layoutLegal s.params ∧ geometryLegal s.params.version.toNat (alignment s.params) := by
  rw [not_kIllegal_iff, layoutLegal_iff_layoutOk, geometryLegal_iff, ChecksPass, checksOf_eq_buildChecks hi]
  simp [Params.buildChecks]

/-- The count check is the last one: it applies when every other check of a build passes. -/
theorem checkFails_seven : checkFails i s 7 ↔ builds i ∧ ChecksPass i s ∧ s.params.mismatch = true := by
  simp only [checkFails, Nat.reduceEqDiff, false_and, true_and, false_or, or_false]
  refine and_congr_right fun hi => ?_
  rw [checksPass_build_iff hi, and_assoc, and_assoc]
  exact and_congr_right fun _ => and_congr_right fun _ => and_congr_right fun hg => (mismatch_iff hg).symm

/-- A check of the table that fails, other than the count check, is a check of the command that fails. -/
theorem mem_checksOf_of_checkFails {n : Nat} (h : checkFails i s n) (h7 : n ≠ 7) :
    ∃ c : FaultCode, (true, c) ∈ checksOf i s ∧ c.code.toNat = n := by
  obtain ⟨rfl, h⟩ | ⟨rfl, h⟩ | ⟨rfl, h⟩ | ⟨rfl, h⟩ | ⟨rfl, hi, hv, -, ha⟩ | ⟨rfl, -⟩ | ⟨rfl, h⟩ | ⟨rfl, h⟩ := h
  · exact ⟨.badK, badK_mem_checksOf.2 h, rfl⟩
  · exact ⟨.badLayout, badLayout_mem_checksOf.2 h, rfl⟩
  · exact ⟨.badRange, badRange_mem_checksOf.2 h, rfl⟩
  · exact ⟨.badVersion, badVersion_mem_checksOf.2 h, rfl⟩
  · exact ⟨.badAlign, badAlign_mem_checksOf.2 ⟨hi, (alignIllegal_iff hv).1 ha⟩, rfl⟩
  · exact absurd rfl h7
  · exact ⟨.notBuilt, notBuilt_mem_checksOf.2 h, rfl⟩
  · exact ⟨.gfLogZero, gfLogZero_mem_checksOf.2 h, rfl⟩

/-- The code of the first check that fails is in the table. BAD_ALIGN needs a legal version there: BAD_VERSION is an earlier check. -/
theorem checkFails_of_firstFault (h : firstFault (checksOf i s) = some c) : checkFails i s c.code.toNat := by
  obtain ⟨hmem, hleast⟩ := firstFault_least (checksOf_pairwise i s) h
  cases c with
  | illegalCmd => exact absurd rfl (code_of_mem_checksOf hmem).1
  | layoutMismatch => exact absurd rfl (code_of_mem_checksOf hmem).2
  | badK => exact .inl ⟨rfl, badK_mem_checksOf.1 hmem⟩
  | badLayout => exact .inr (.inl ⟨rfl, badLayout_mem_checksOf.1 hmem⟩)
  | badRange => exact .inr (.inr (.inl ⟨rfl, badRange_mem_checksOf.1 hmem⟩))
  | badVersion => exact .inr (.inr (.inr (.inl ⟨rfl, badVersion_mem_checksOf.1 hmem⟩)))
  | badAlign =>
    obtain ⟨hi, ha⟩ := badAlign_mem_checksOf.1 hmem
    have hv : ¬ (s.params.version.toNat < 1 ∨ 40 < s.params.version.toNat) := fun hv =>
      absurd (hleast .badVersion (badVersion_mem_checksOf.2 ⟨hi, hv⟩)) (by decide)
    have h1 : 1 ≤ s.params.version.toNat := by omega
    exact .inr (.inr (.inr (.inr (.inl ⟨rfl, hi, h1, by omega, (alignIllegal_iff h1).2 ha⟩))))
  | notBuilt => exact .inr (.inr (.inr (.inr (.inr (.inr (.inl ⟨rfl, notBuilt_mem_checksOf.1 hmem⟩))))))
  | gfLogZero => exact .inr (.inr (.inr (.inr (.inr (.inr (.inr ⟨rfl, gfLogZero_mem_checksOf.1 hmem⟩))))))

theorem not_checksPass_of_firstFault (h : firstFault (checksOf i s) = some c) : ¬ ChecksPass i s := fun hpass => by
  cases h.symm.trans (firstFault_eq_none.2 hpass)

/-- No check with a code below that of the first failing one fails. -/
theorem code_le_of_checkFails (h : firstFault (checksOf i s) = some c) {n : Nat} (hn : checkFails i s n) : c.code.toNat ≤ n := by
  by_cases h7 : n = 7
  · subst h7
    exact absurd (checkFails_seven.1 hn).2.1 (not_checksPass_of_firstFault h)
  · obtain ⟨d, hd, rfl⟩ := mem_checksOf_of_checkFails hn h7
    exact (firstFault_least (checksOf_pairwise i s) h).2 d hd

/-- When the command's other checks pass, the count check is the only one that can fail. -/
theorem eq_seven_of_checkFails (h : ChecksPass i s) {n : Nat} (hn : checkFails i s n) : n = 7 := by
  by_contra h7
  obtain ⟨d, hd, -⟩ := mem_checksOf_of_checkFails hn h7
  cases h _ hd

end

/-! ### The end of an accepted command -/

section

variable {i : Instr} {s t : State} {c : FaultCode}

/-- The writes of a successful command leave FAULT (R60). -/
theorem writes_status_fault (s : State) (i : Instr) : (s.writes i).status.fault = s.status.fault := by
  cases i <;> simp [State.writes]

/-- A legal command reports the least code among the checks that fail (R281). -/
theorem exec_reports_least (hf : s.status.fault = false) (hc : s.status.fcode = 0#8) (h : exec i s = .next t) :
    (t.status.fault = true ↔ ∃ n, checkFails i s n) ∧
    (t.status.fault = true → checkFails i s t.status.fcode.toNat ∧ ∀ n < t.status.fcode.toNat, ¬ checkFails i s n) := by
  rcases exec_cases h with ⟨c, hfirst, rfl⟩ | ⟨hi, hpass, hm, rfl⟩ | ⟨hpass, hm, rfl⟩
  · have hcode : (s.raiseFault c).status.fcode = c.code := if_pos hc
    have hfail := checkFails_of_firstFault hfirst
    rw [hcode]
    exact ⟨iff_of_true rfl ⟨_, hfail⟩, fun _ => ⟨hfail, fun n hn hn' => absurd (code_le_of_checkFails hfirst hn') (by omega)⟩⟩
  · have hcode : (s.recordFreeCount.raiseFault .layoutMismatch).status.fcode = 0x07#8 := if_pos hc
    have hfail : checkFails i s 7 := checkFails_seven.2 ⟨hi, hpass, hm⟩
    rw [hcode]
    exact ⟨iff_of_true rfl ⟨7, hfail⟩, fun _ => ⟨hfail, fun n hn hn' => hn.ne (eq_seven_of_checkFails hpass hn')⟩⟩
  · have hclear : ¬ (s.writes i).complete.status.fault = true := by simp [writes_status_fault, hf]
    have hnone : ¬ ∃ n, checkFails i s n := fun ⟨n, hn⟩ => by
      obtain rfl := eq_seven_of_checkFails hpass hn
      obtain ⟨hi, -, hmis⟩ := checkFails_seven.1 hn
      simp [hm hi] at hmis
    exact ⟨iff_of_false hclear hnone, fun hset => absurd hset hclear⟩

/-- The codes of the checks before the count check (R271). -/
theorem code_bounds_of_firstFault (h : firstFault (checksOf i s) = some c) :
    1 ≤ c.code.toNat ∧ c.code.toNat ≤ 9 ∧ c.code.toNat ≠ 7 := by
  refine ⟨c.code_range.1, c.code_range.2, fun h7 => ?_⟩
  have hc : c = .layoutMismatch := FaultCode.code_injective (BitVec.eq_of_toNat_eq h7)
  exact (code_of_mem_checksOf (firstFault_least (checksOf_pairwise i s) h).1).2 hc

/-- A command that does not complete has faulted: a check fails, or the count check of a build, which records the rules' own count. -/
theorem exec_not_done (h : exec i s = .next t) (hd : t.status.done = false) :
    (∃ c, firstFault (checksOf i s) = some c ∧ t = faulted c.code s) ∨
    (builds i ∧
      t = faulted 0x07#8
        { s with
          symbol :=
            { s.symbol with
              dataModules := BitVec.ofNat 16 (freeCount s.params.version.toNat (alignment s.params)) } }) := by
  rcases exec_cases h with hfault | ⟨hi, hpass, -, rfl⟩ | ⟨-, -, rfl⟩
  · exact .inl hfault
  · obtain ⟨-, -, hg⟩ := (checksPass_build_iff hi).1 hpass
    refine .inr ⟨hi, ?_⟩
    rw [State.recordFreeCount, Params.freeCount_eq hg]
    rfl
  · cases hd

end

/-- Settles O4: the write is an acceptance, and the accepted word decodes to no command. -/
theorem illegalCommandWord : Obligations.IllegalCommandWord := by
  intro s w hs hw
  dsimp only
  rw [(commandAcceptance s w hs).1]
  exact ⟨rfl, (sequencerTurn_illegal rfl hw).trans (by rw [hs]; rfl)⟩

/-- Settles O42: a command ends in one of three ways, and the two without DONE write the fault only, or the fault and F. -/
theorem faultWritesExactly : Obligations.FaultWritesExactly := by
  intro s t w hs _ ht hd
  rcases hw : decode w with e | i
  · rw [sequencerTurn_illegal hs (by simp [hw])] at ht
    exact .inl ⟨1, by decide, by decide, by decide, (Host.Outcome.next.inj ht).symm⟩
  · rw [State.sequencerTurn_decoded hs hw] at ht
    rcases exec_not_done ht hd with ⟨c, hc, rfl⟩ | ⟨hi, rfl⟩
    · obtain ⟨h1, h9, h7⟩ := code_bounds_of_firstFault hc
      exact .inl ⟨c.code.toNat, h1, h9, h7, by rw [BitVec.ofNat_toNat, BitVec.setWidth_eq]⟩
    · exact .inr ⟨hi.imp (congrArg _) (congrArg _), rfl⟩

/-- Settles O43: the word check comes first, then the command's checks in the order of their codes. -/
theorem faultPriority : Obligations.FaultPriority := by
  refine fun s t w hs hf hc ht => ⟨fun hw => ?_, fun i hw => ?_⟩
  · rw [sequencerTurn_illegal hs hw] at ht
    cases ht
    exact ⟨rfl, faulted_fcode hc _⟩
  · rw [State.sequencerTurn_decoded hs hw] at ht
    exact exec_reports_least hf hc ht

end Sys2Proof
end

section

/-! The interrupt output (spec/60_exceptions.md R280, R286). -/

namespace Sys2Proof.Machine

open Sys2Proof.Terms

theorem State.irq_eq_true {s : State} :
    s.irq = true ↔ (s.ctrl.ie = true ∧ s.status.done = true) ∨ (s.ctrl.fie = true ∧ s.status.fault = true) := by
  rw [State.irq, Bool.or_eq_true, Bool.and_eq_true, Bool.and_eq_true]

/-- With the enables unchanged, the interrupt output rises only with DONE or FAULT. -/
theorem State.irq_of_le {s t : State} (hctrl : t.ctrl = s.ctrl) (hdone : t.status.done = true → s.status.done = true)
    (hfault : t.status.fault = true → s.status.fault = true) (h : t.irq = true) : s.irq = true := by
  rw [State.irq_eq_true, hctrl] at h
  exact State.irq_eq_true.2 (h.imp (.imp_right hdone) (.imp_right hfault))

/-- A write to STATUS sets neither DONE nor FAULT (R24). -/
theorem Status.done_of_writeOneToClear {st : Status} {v : Word} (h : (st.writeOneToClear v).done = true) : st.done = true := by
  rw [Status.writeOneToClear_eq] at h
  exact (Bool.and_eq_true_iff.1 h).1

theorem Status.fault_of_writeOneToClear {st : Status} {v : Word} (h : (st.writeOneToClear v).fault = true) : st.fault = true := by
  rw [Status.writeOneToClear_eq] at h
  exact (Bool.and_eq_true_iff.1 h).1

theorem State.irq_startReset (s : State) : s.startReset.irq = false := rfl

/-- Of the registers, only a write to CTRL can raise the interrupt output. -/
theorem State.irq_of_irq_writeReg {s : State} {r : Reg} {v : Word} (hr : r ≠ .ctrl) (h : (s.writeReg r v).irq = true) :
    s.irq = true := by
  cases r
  case ctrl => exact absurd rfl hr
  case status =>
    exact State.irq_of_le (t := { s with status := s.status.writeOneToClear v }) rfl
      Status.done_of_writeOneToClear Status.fault_of_writeOneToClear h
  case cmd => exact State.irq_of_le (t := s.accept v) rfl nofun id h
  all_goals exact h

/-- CTRL stands at offset 0x004 only. -/
theorem offset_eq_of_placeOf_ctrl {off : Offset} (hp : placeOf off = .reg .ctrl) (h4 : off.toNat % 4 = 0) : off = 0x004#16 := by
  have hctrl : ∀ k < 96, regAt k = .ctrl → k = 1 := by decide
  rcases placeOf_cases off with ⟨hlt, hp'⟩ | ⟨-, hp'⟩ | ⟨-, -, hp'⟩ | ⟨-, -, hp'⟩ | ⟨-, hp'⟩ <;> rw [hp] at hp'
  · have hk := hctrl (off.toNat / 4) (by omega) (Place.reg.inj hp').symm
    exact BitVec.eq_of_toNat_eq (by show off.toNat = 4; omega)
  all_goals cases hp'

/-- A performed access that raises the interrupt output is a write to CTRL. -/
theorem State.perform_raises_irq {s : State} {a : Access} (ha : a.addrRefused = false) (hlow : s.irq = false)
    (h : (s.perform a).irq = true) : ∃ v, a = .write32 0x004#16 v := by
  have hno : ¬ s.irq = true := by simp [hlow]
  cases a with
  | read8 off => exact absurd h hno
  | read32 off => exact absurd h hno
  | write8 off v =>
    simp only [State.perform] at h
    cases hp : placeOf off <;> rw [hp] at h <;> exact absurd h hno
  | write32 off v =>
    simp only [State.perform] at h
    rcases hp : placeOf off with r | _ | _ | _ | _ <;> rw [hp] at h
    case reg =>
      by_cases hr : r = .ctrl
      · subst hr
        have hmis : (Access.write32 off v).misaligned = false := by
          simp only [Access.addrRefused, Access.offset, hp, Bool.or_eq_false_iff] at ha
          exact ha.1.2
        exact ⟨v, by rw [offset_eq_of_placeOf_ctrl hp (aligned_of_misaligned_eq_false hmis)]⟩
      · exact absurd (State.irq_of_irq_writeReg hr h) hno
    all_goals exact absurd h hno

/-- A host access that raises the interrupt output is a write to CTRL. -/
theorem State.hostAccess_raises_irq {s : State} {a : Access} (hlow : s.irq = false) (h : (s.hostAccess a).irq = true) :
    ∃ v, a = .write32 0x004#16 v := by
  rcases s.hostAccess_cases a with ⟨-, he⟩ | ⟨-, -, -, he⟩ | ⟨ha, -, he⟩ <;> rw [he] at h
  · cases hlow.symm.trans h
  · cases hlow.symm.trans h
  · exact State.perform_raises_irq ha hlow h

/-- The sequencer raises the interrupt output only at the end of a command. -/
theorem State.sequencerTurn_raises_irq {s t : State} (hlow : s.irq = false) (h : s.sequencerTurn = .next t) (hirq : t.irq = true) :
    ∃ w, s.seq = .exec w ∧ t.seq = .idle := by
  rcases s.sequencerTurn_cases with ⟨-, he⟩ | ⟨-, he⟩ | ⟨w, i, hs, -, he⟩ | ⟨w, e, hs, -, he⟩ <;> rw [he] at h
  · cases h
    cases hlow.symm.trans hirq
  · cases h
    cases hlow.symm.trans hirq
  · obtain ⟨-, -, -, -, -, -, -, -, hidle, -⟩ := commandWriteSets i s t h
    exact ⟨w, hs, hidle⟩
  · cases h
    exact ⟨w, hs, rfl⟩

theorem step_raises_irq {s t : State} (h : step s = .next t) (hlow : s.irq = false) (hirq : t.irq = true) :
    (∃ w, s.seq = .exec w ∧ t.seq = .idle) ∨ ∃ v es, s.events = .host (.write32 0x004#16 v) :: es := by
  rcases step_cases s with ⟨-, he⟩ | ⟨es, -, he⟩ | ⟨a, es, hev, he⟩ | ⟨es, -, he⟩ <;> rw [he] at h
  · exact .inl (State.sequencerTurn_raises_irq hlow h hirq)
  · exact .inl (State.sequencerTurn_raises_irq (s := { s with events := es }) hlow h hirq)
  · cases h
    obtain ⟨v, rfl⟩ := State.hostAccess_raises_irq (s := { s with events := es }) hlow hirq
    exact .inr ⟨v, es, hev⟩
  · cases h
    cases (State.irq_startReset _).symm.trans hirq

/-- Settles O55: DONE and FAULT rise at the end of a command only, and the enables by a write to CTRL only. -/
theorem interruptOutput : Obligations.InterruptOutput := by
  refine fun s => ⟨State.irq_eq_true, fun ⟨_, _, hdone, hfault, _⟩ hs => ?_, fun t => step_raises_irq, ?_, ?_⟩
  · simp [State.irq, hdone (by simp [hs]), hfault hs]
  · rw [(statusReadAndClear s _).2]
    simp [State.irq]
  · rw [ctrl_write (by decide)]
    simp [State.irq]

end Sys2Proof.Machine
end

section

/-! Every step has a next state, and every turn of the sequencer ends in IDLE (spec/70_reset_and_hazards.md R311, R312). -/

namespace Sys2Proof.Machine

/-! ### The end of a command -/

theorem State.conclude_next (s : State) (check : Option FaultCode) (t : State) : ∃ u, s.conclude check t = .next u := by
  cases check with
  | none => exact ⟨_, rfl⟩
  | some c => exact ⟨_, rfl⟩

theorem State.concludeBuild_next (s t : State) : ∃ u, s.concludeBuild t = .next u := by
  unfold State.concludeBuild
  split
  · exact ⟨_, rfl⟩
  · split <;> exact ⟨_, rfl⟩

/-- No command stops the machine. -/
theorem exec_next (i : Instr) (s : State) : ∃ t, exec i s = .next t := by
  rcases exec_ends i s with ⟨check, t, h⟩ | ⟨-, t, h⟩
  · exact h ▸ s.conclude_next check t
  · exact h ▸ s.concludeBuild_next t

/-- A command reports its end: DONE, or FAULT (spec/20_memory.md R85). -/
theorem exec_done_or_fault {i : Instr} {s t : State} (h : exec i s = .next t) : t.status.done = true ∨ t.status.fault = true := by
  rcases exec_cases h with ⟨c, -, rfl⟩ | ⟨-, -, -, rfl⟩ | ⟨-, -, rfl⟩
  · exact .inr rfl
  · exact .inr rfl
  · exact .inl rfl

/-! ### The sequencer and the step -/

/-- The sequencer's turn ends in IDLE, takes no input, and reports the end of a command it executed. -/
theorem State.sequencerTurn_next (s : State) :
    ∃ t, s.sequencerTurn = .next t ∧ t.seq = .idle ∧ t.events = s.events ∧
      ∀ w, s.seq = .exec w → t.status.done = true ∨ t.status.fault = true := by
  rcases s.sequencerTurn_cases with ⟨hs, h⟩ | ⟨hs, h⟩ | ⟨w, i, -, -, h⟩ | ⟨w, e, -, -, h⟩ <;> rw [h]
  · exact ⟨_, rfl, rfl, rfl, by simp [hs]⟩
  · exact ⟨_, rfl, hs, rfl, by simp [hs]⟩
  · obtain ⟨t, ht⟩ := exec_next i s
    obtain ⟨-, -, -, -, hevents, -, -, -, hidle, -⟩ := commandWriteSets i s t ht
    exact ⟨t, ht, hidle, hevents, fun _ _ => exec_done_or_fault ht⟩
  · exact ⟨_, rfl, rfl, rfl, fun _ _ => .inr rfl⟩

theorem HostEffect.events_eq {s u : State} (h : HostEffect s u) : u.events = s.events := by
  cases h <;> rfl

/-- A step takes one input, if one is left. -/
theorem step_next (s : State) : ∃ t, step s = .next t ∧ t.events = s.events.tail := by
  rcases step_cases s with ⟨hev, h⟩ | ⟨es, hev, h⟩ | ⟨a, es, hev, h⟩ | ⟨es, hev, h⟩ <;> rw [h, hev]
  · obtain ⟨t, ht, -, hevents, -⟩ := s.sequencerTurn_next
    exact ⟨t, ht, hevents.trans hev⟩
  · obtain ⟨t, ht, -, hevents, -⟩ := State.sequencerTurn_next { s with events := es }
    exact ⟨t, ht, hevents⟩
  · obtain ⟨u, r, hu, hacc⟩ := State.hostAccess_effect { s with events := es } a
    exact ⟨_, rfl, by rw [hacc]; exact hu.events_eq⟩
  · exact ⟨_, rfl, rfl⟩

/-! ### Runs -/

theorem run_succ {s t : State} (h : step s = .next t) (n : Nat) : Host.Core.run core (n + 1) s = Host.Core.run core n t := by
  have hcore : core.step s = .next t := h
  simp only [Host.Core.run, hcore]

/-- The inputs used up, the sequencer's turn brings the machine to rest. -/
theorem run_rests (n : Nat) (s : State) (hn : s.events.length = n) :
    ∃ t : State, Host.Core.run core (n + 1) s = .next t ∧ t.events = [] ∧ t.seq = .idle := by
  induction n generalizing s with
  | zero =>
    have hnil := List.eq_nil_of_length_eq_zero hn
    obtain ⟨t, ht, hidle, hevents, -⟩ := s.sequencerTurn_next
    exact ⟨t, run_succ ((step_nil hnil).trans ht) 0, hevents.trans hnil, hidle⟩
  | succ n ih =>
    obtain ⟨t, ht, hevents⟩ := step_next s
    obtain ⟨u, hu, hrest⟩ := ih t (by rw [hevents, List.length_tail, hn, Nat.add_sub_cancel])
    exact ⟨u, (run_succ ht _).trans hu, hrest⟩

/-- Settles O6: a step takes one input, a command ends in one of the two ends of a command, and a run is by induction on the inputs. -/
theorem acceptedCommandCompletes : Obligations.AcceptedCommandCompletes := by
  refine ⟨fun s => ?_, fun s w hs => ?_, fun s => run_rests _ s rfl⟩
  · obtain ⟨t, ht, -⟩ := step_next s
    exact ⟨t, ht⟩
  · obtain ⟨t, ht, hidle, -, hend⟩ := s.sequencerTurn_next
    exact ⟨t, ht, hidle, hend w hs⟩

end Sys2Proof.Machine
end

section

/-! Reset, hardware and soft, and the state it leaves (spec/70_reset_and_hazards.md R301 to R303). -/

namespace Sys2Proof.Machine

open Sys2Proof.Terms

/-- Settles O53: CTRL takes a write in every SEQ state, and SRST makes it a reset. -/
theorem softReset : Obligations.SoftReset := by
  intro s v hv
  have hreset : s.hostAccess (.write32 0x004#16 v) = { State.reset with events := s.events, reply := some .written } := by
    rw [State.hostAccess_write32_reg (r := .ctrl) v (by decide) (by decide) rfl (.inr (.inr (.inl rfl)))]
    simp only [State.writeReg, State.writeCtrl, hv, if_true, State.startReset]
  rw [hreset]
  exact ⟨rfl, rfl, State.sequencerTurn_init rfl⟩

/-- The state once the initialisation after a reset has ended. -/
def State.resetDone : State := { State.reset with seq := .idle }

/-- Every register but ID reads 0 after reset (R303). -/
theorem State.readReg_resetDone (r : Reg) : State.resetDone.readReg r = if r = .id then Config.idValue else 0#32 := by
  cases r with
  | alignPos i => revert i; decide
  | penalty m => revert m; decide
  | gpoly i => revert i; decide
  | _ => rfl

/-- ID is the first word of the window. -/
theorem regAt_eq_id : ∀ k < 96, regAt k = .id ↔ k = 0 := by decide

/-- Every byte of the three memories is 0 after reset (R301). -/
theorem State.memByte_resetDone (o : Nat) : State.resetDone.memByte o = 0#8 := by
  have hmx : ∀ j, Memory.readMx [] j = 0#8 := fun j => ite_self _
  simp only [State.memByte, State.resetDone, State.reset, Memory.readByte_nil, hmx, ite_self]

theorem read32_resetDone {off : Nat} (hoff : off < 0x180) (h4 : off % 4 = 0) :
    (State.resetDone.hostAccess (.read32 (BitVec.ofNat 16 off))).reply =
      some (.data (if off = 0 then 0x51524501#32 else 0#32)) := by
  have hto := toNat_offset (show off < 0x10000 by omega)
  have hid : regAt (off / 4) = .id ↔ off = 0 := (regAt_eq_id _ (by omega)).trans (by omega)
  rw [State.hostAccess_read32_reg (placeOf_reg (by rwa [hto])) (by rwa [hto]) (.inl rfl), hto]
  simp only [State.readReg_resetDone, hid, Config.idValue]

/-- Settles O54: the reads during the initialisation are evaluated; after it every register and every byte is read through the address
map. -/
theorem resetValues : Obligations.ResetValues := by
  refine ⟨rfl, rfl, rfl, rfl, rfl, rfl, rfl, fun off hoff h4 => read32_resetDone hoff h4, fun off hm ho => ?_⟩
  exact (State.read8_memory (s := State.resetDone) rfl hm ho).trans (by rw [State.memByte_resetDone]; rfl)

end Sys2Proof.Machine

namespace Sys2Proof.Safety

open Sys2Proof.Machine

theorem memoriesCanonical_reset : MemoriesCanonical State.reset := ⟨Memory.wf_nil, Memory.wf_nil, Memory.wf_nil⟩

theorem buffersInRange_reset : BuffersInRange State.reset := ⟨List.forall_mem_nil _, List.forall_mem_nil _⟩

/-- DONE, FAULT and FCODE are 0 after reset, and no word executes. -/
theorem statusConsistent_reset : StatusConsistent State.reset :=
  ⟨fun _ => rfl, nofun, fun _ => rfl, fun _ => rfl, nofun⟩

/-- GPV is 0 after reset. -/
theorem generatorConsistent_reset : GeneratorConsistent State.reset := ⟨fun _ => rfl, nofun⟩

/-- There is no matrix after reset. -/
theorem matrixConsistent_reset : MatrixConsistent State.reset :=
  ⟨fun _ => ⟨rfl, rfl, rfl, rfl, rfl, rfl⟩, nofun⟩

/-- Settles O60: the memories are empty, and STATUS, the generator registers and the matrix registers as R303 lists them. -/
theorem resetMeetsInvariants : Obligations.ResetMeetsInvariants :=
  ⟨memoriesCanonical_reset, buffersInRange_reset, statusConsistent_reset, generatorConsistent_reset, matrixConsistent_reset⟩

end Sys2Proof.Safety
end
